-- ==== Sys2Proof/Word.lean ====
section
/-! DEFINITION. The word, byte and index types of the machine (spec/10_state.md R10, R13; spec/30_encoding.md R46). -/

namespace Sys2Proof

/-- The content of a register, an address or an instruction: 32 bits (R1, R10). -/
abbrev Word := BitVec 32

/-- One byte of the address space (R30). -/
abbrev Byte := BitVec 8

/-- The number of a general-purpose register, a 5-bit field: `GPR[0]` to `GPR[31]` (R10, R46). -/
abbrev Reg := Fin 32

/-- The number of a CR field, the 3-bit operand crfD: CR0 to CR7 (R13, R46). -/
abbrev CrIndex := Fin 8

/-- A bit position or a shift amount, 0 to 31: the operands SH, MB and ME (R53, R150). -/
abbrev BitPos := Fin 32

end Sys2Proof
end

