-- ==== Sys2Proof/Config.lean ====
section
/-! DEFINITION. What the spec leaves free: DIV_UNDEF (spec/00_scope.md section 5, spec/92_eei_decisions.md D7). -/

namespace Sys2Proof

/-- The free draw that an undefined divide places in rD (R106, D7), as a function of the number of draws made before.
Log entry 7, DESIGN CHOICE; safe: nothing can be proved of its value, and no two draws of a run are related. -/
opaque Config.divUndefResult : Nat → Word

/-- The free draw of the LT, GT and EQ bits (LT leftmost) that an undefined divide with Rc = 1 places in CR0
(R106, D7). It need not be one-hot and need not agree with `Config.divUndefResult`. Log entries 7 and 16, DESIGN
CHOICE; safe. -/
opaque Config.divUndefOrder : Nat → BitVec 3

end Sys2Proof
end

