-- ==== Sys2Proof/Machine/State.lean ====
section
/-! DEFINITION. The machine's state, the reasons a step stops, and the state after reset. -/

namespace Sys2Proof.Machine

/-- The exceptions the source names (R181). Only `systemCall` and `programTrap` are raised in scope (R194). -/
inductive ExceptionKind where
  /-- `Alignment`: a data access of invalid alignment (R182); no instruction in scope accesses data. -/
  | alignment
  /-- `SystemCall`: the `sc` instruction (R183). -/
  | systemCall
  /-- `Program(Trap)`: a trap instruction whose condition holds (R184). -/
  | programTrap
  /-- `FPUnavailable`: a floating-point instruction while MSR[FP] = 0 (R186). -/
  | fpUnavailable
  /-- `Program(FPEnabled)`: an enabled floating-point exception (R187). -/
  | programFpEnabled
  /-- `FPAssist`: a floating-point instruction that needs system software (R188). -/
  | fpAssist
deriving DecidableEq, Repr

/-- The outcome `Exception(kind, at, next)` of R180: `raisedAt` is its `at`, the pc of the instruction; `next` is
`pc + 4` for the system call and `at` for every other kind. -/
structure ExceptionRecord where
  kind : ExceptionKind
  raisedAt : Word
  next : Word
deriving DecidableEq, Repr

/-- MEM, a partial map from byte addresses to bytes (R31, D17): pairs of address and byte in one canonical form,
`Memory.wf` (log entry 4). -/
abbrev Memory := List Host.Cell

/-- The machine's state (spec/10_state.md section 1). -/
structure State where
  /-- `GPR[0]` to `GPR[31]` (R10). -/
  gpr : Vector Word 32
  /-- The address of the instruction being executed (R12). -/
  pc : Word
  /-- The condition register: CR field k is bits 4k to 4k+3, LT, GT, EQ, SO from the left (R13). -/
  cr : Word
  /-- The XER: bit 0 SO, bit 1 OV, bit 2 CA, the other 29 bits opaque (R14). -/
  xer : Word
  /-- The machine state register, of which the source names FP (R18). -/
  msr : Word
  /-- The memory MEM of the run (R30, R31). -/
  mem : Memory
  /-- END_PC, the address at which the run is over, if it has one (R213). Log entry 5. -/
  endPc : Option Word
  /-- The model's own counter of draws made from DIV_UNDEF (R106, D7). Log entry 7. -/
  draws : Nat
deriving DecidableEq, Repr

/-- Why the machine stops. -/
inductive Fault where
  /-- The outcome `Exception(kind, at, next)` (R180): raised by the step that executes `sc` (R183), or `tw` or `twi` when
  its condition holds (R184). It ends the run, and the registers keep the values of the state the step was taken from
  (R180), so it carries no state. Log entry 1. Safe: nothing more is executed. -/
  | exception (e : ExceptionRecord)
  /-- The outcome `InvalidForm(at, word)` (R60, R61): raised by a step whose word is an invalid form, and by a compare
  given L = 1. Safe: the spec gives it no effect. -/
  | invalidForm (raisedAt word : Word)
  /-- The outcome `Stuck` (R31): raised by a step whose pc has no word in memory. Safe. -/
  | stuck (raisedAt : Word)
  /-- The final end of a run (R213): raised by a step whose pc is END_PC, before any fetch. It is no error. Safe. -/
  | runEnded (raisedAt : Word)
deriving DecidableEq, Repr

/-- Why the model gives no meaning. -/
inductive Refusal where
  /-- An instruction whose arm of `exec` has no meaning yet: raised by no arm. Safe. -/
  | notModelled (mnemonic : String)
  /-- The outcome `Refused(at, word)` (R62): raised by a step whose word is of no row of the opcode table. Safe: the
  spec gives it no meaning. -/
  | refusedWord (raisedAt word : Word)
  /-- A launch at a pc that is no multiple of 4 (R33): raised by a step at such a pc. Log entry 9. Safe. -/
  | misalignedPc (raisedAt : Word)
deriving DecidableEq, Repr

/-- The machine right after reset. The spec states no reset value (R20, R210): the GPRs, CR and XER are 0 (log entry 3,
DESIGN CHOICE, unsafe); the pc is the system reset vector 0x00100 from the base 0xFFF00000 and MSR holds IP alone (log
entry 2, PRESUMED, the family's values of K16, unsafe); memory lists nothing (log entry 4), there is no END_PC (log
entry 5), no draw has been made (log entry 7). -/
def State.reset : State where
  gpr := Vector.replicate 32 0
  pc := 0xFFF00100
  cr := 0
  xer := 0
  msr := 0x00000040
  mem := []
  endPc := none
  draws := 0

end Sys2Proof.Machine
end

