-- ==== Sys2Proof/Machine/Flags.lean ====
section
/-! DEFINITION. The XER bits, the CR fields, and the three flag rules: record (R15), overflow (R16), carry (R17). -/

namespace Sys2Proof.Machine

/-- `w` with bit `i`, numbered from the most significant end (R2), set to `b`. -/
def putBit (w : Word) (i : Nat) (b : Bool) : Word :=
  if b then w ||| (0x80000000#32 >>> i) else w &&& ~~~(0x80000000#32 >>> i)

/-- XER[SO], bit 0 (R14). -/
def State.so (s : State) : Bool := s.xer.getMsbD 0

/-- XER[OV], bit 1 (R14). -/
def State.ov (s : State) : Bool := s.xer.getMsbD 1

/-- XER[CA], bit 2 (R14). -/
def State.ca (s : State) : Bool := s.xer.getMsbD 2

/-- The XER with CA set to `c`. -/
def withCa (xer : Word) (c : Bool) : Word := putBit xer 2 c

/-- The overflow rule (R16): OV is set or cleared, SO is set when OV is set and never cleared. -/
def withOverflow (xer : Word) (ov : Bool) : Word := putBit (putBit xer 1 ov) 0 (xer.getMsbD 0 || ov)

/-- CR field `k`, the four bits 4k to 4k+3 (R13). -/
def crField (cr : Word) (k : CrIndex) : BitVec 4 := (cr >>> (28 - 4 * k.val)).truncate 4

/-- The CR with field `k` replaced, the other 28 bits unchanged (R13). -/
def withCrField (cr : Word) (k : CrIndex) (v : BitVec 4) : Word :=
  (cr &&& ~~~(0xF#32 <<< (28 - 4 * k.val))) ||| (v.zeroExtend 32 <<< (28 - 4 * k.val))

/-- The bits LT, GT, EQ for a first operand less than, greater than, or else equal to the second (R13, R115). -/
def orderBits (less greater : Bool) : BitVec 3 := if less then 0b100 else if greater then 0b010 else 0b001

/-- LT, GT, EQ of a result: the signed comparison of it with zero (R15). -/
def resultOrder (r : Word) : BitVec 3 := orderBits (r.slt 0) ((0 : Word).slt r)

/-- `op1 + op2 + cin` modulo 2^32 (R70). -/
def sum32 (op1 op2 : Word) (cin : Bool) : Word := op1 + op2 + (BitVec.ofBool cin).zeroExtend 32

/-- `carry32`: the carry out of bit 0 of the sum of three addends (R17). -/
def carry32 (op1 op2 : Word) (cin : Bool) : Bool := decide (2 ^ 32 ≤ op1.toNat + op2.toNat + cin.toNat)

/-- Whether an exact integer lies outside the signed 32-bit range. -/
def outsideInt32 (n : Int) : Bool := decide (n < -2 ^ 31) || decide (2 ^ 31 - 1 < n)

/-- `ovf32`: the exact signed sum of three addends is not representable in 32 bits (R16). -/
def ovf32 (op1 op2 : Word) (cin : Bool) : Bool := outsideInt32 (op1.toInt + op2.toInt + cin.toNat)

/-- CA of an algebraic right shift by `n` places, 0 to 63 (R160, R163, R164): the source is negative and a 1 bit is
shifted out of position 31. -/
def algebraicCarry (v : Word) (n : Nat) : Bool := v.msb && decide (v.toNat % 2 ^ n ≠ 0)

end Sys2Proof.Machine
end

