-- ==== Sys2Proof/Machine/Operands.lean ====
section
/-! DEFINITION. How operands are formed (spec/30_encoding.md R53), and the mask generator and rotation
(spec/44_integer_rotate.md R150, R151). -/

namespace Sys2Proof.Machine

/-- The content of a general-purpose register; register 0 is an ordinary register (R10, R11). -/
def State.readGpr (s : State) (r : Reg) : Word := s.gpr[r]

/-- `(rA|0)`: the value 0 when the rA field is 0, else the content of rA (R3, R11). -/
def State.readGprOrZero (s : State) (r : Reg) : Word := if r = 0 then 0 else s.readGpr r

/-- `sext_32(SIMM)` (R53). -/
def signExtended (imm : BitVec 16) : Word := imm.signExtend 32

/-- `0x0000 || UIMM` (R53). -/
def zeroExtended (imm : BitVec 16) : Word := 0#16 ++ imm

/-- `SIMM || 0x0000` and `UIMM || 0x0000` (R53). -/
def shiftedImmediate (imm : BitVec 16) : Word := imm ++ 0#16

/-- The low-order five bits of rB, the count of `rlwnm` (R154). -/
def rotateCount (b : Word) : Nat := (b.extractLsb' 0 5).toNat

/-- The low-order six bits of rB, the count of the register-count shifts (R160). -/
def shiftCount (b : Word) : Nat := (b.extractLsb' 0 6).toNat

/-- `ROTL32(v, n)` (R151): bits that exit from position 0 enter at position 31. -/
def rotl32 (v : Word) (n : Nat) : Word := v.rotateLeft n

/-- `MASK(mb, me)` (R150): 1 bits from position mb through position me, wrapping from 31 to 0 when mb > me. -/
def mask (mb me : BitPos) : Word :=
  let fromStart := BitVec.allOnes 32 >>> mb.val
  let toStop := BitVec.allOnes 32 <<< (31 - me.val)
  if mb ≤ me then fromStart &&& toStop else fromStart ||| toStop

/-- `TRAPCOND(TO, a, b)` (R171): TO's bits, from the left, select signed less, signed greater, equal, unsigned less and
unsigned greater. -/
def trapCondition (trapOn : BitVec 5) (a b : Word) : Bool :=
  (trapOn.getMsbD 0 && a.slt b) || (trapOn.getMsbD 1 && b.slt a) || (trapOn.getMsbD 2 && a == b) ||
    (trapOn.getMsbD 3 && a.ult b) || (trapOn.getMsbD 4 && b.ult a)

/-- The loop of R142: from bit `n` on, count zero bits until a 1 bit or until `fuel` bits have been seen. -/
def countZerosFrom (v : Word) : Nat → Nat → Nat
  | 0, n => n
  | fuel + 1, n => if v.getMsbD n then n else countZerosFrom v fuel (n + 1)

/-- The number of consecutive zero bits starting at bit 0, 0 to 32 (R142). -/
def leadingZeros (v : Word) : Nat := countZerosFrom v 32 0

end Sys2Proof.Machine
end

