-- ==== Sys2Proof/Machine/Ops.lean ====
section
/-! DEFINITION. The named operations over registers and memory, and taking an exception. -/

namespace Sys2Proof.Machine

/-! ## Memory (spec/20_memory.md) -/

/-- What an address that memory does not list holds: no byte (R31: MEM is a partial function). Log entry 4, safe. -/
def unlistedByte : Option Byte := none

/-- The byte at an address (R30, R31). -/
def Memory.read : Memory → Nat → Option Byte
  | [], _ => unlistedByte
  | (b, v) :: rest, a => if a = b then some v else Memory.read rest a

/-- Memory with one byte defined. No instruction stores (D9): this is how MEM is given its contents. Log entry 6. -/
def Memory.write : Memory → Nat → Byte → Memory
  | [], a, v => [(a, v)]
  | (b, u) :: rest, a, v =>
    if a < b then (a, v) :: (b, u) :: rest else if a = b then (a, v) :: rest else (b, u) :: Memory.write rest a v

/-- The canonical form: addresses strictly rising, each in the 32-bit space (R30), and no entry equal to what an
unlisted address reads as. -/
def Memory.wf (m : Memory) : Bool :=
  decide (m.Pairwise fun x y => x.1 < y.1) && m.all fun x => decide (x.1 < 2 ^ 32) && decide (some x.2 ≠ unlistedByte)

/-- `MemRead(addr, n)`: the bytes at `addr` and the `n - 1` addresses after it, if memory defines them all; addresses
are 32 bits (R30, R31). -/
def Memory.readBytes (m : Memory) (addr : Word) : Nat → Option (List Byte)
  | 0 => some []
  | n + 1 =>
    match m.read addr.toNat, Memory.readBytes m (addr + 1) n with
    | some b, some bs => some (b :: bs)
    | _, _ => none

/-- `MemWrite(addr, n, v)` of a list of bytes at ascending addresses. No instruction in scope uses it. Log entry 6. -/
def Memory.writeBytes (m : Memory) (addr : Word) : List Byte → Memory
  | [] => m
  | b :: bs => Memory.writeBytes (m.write addr.toNat b) (addr + 1) bs

/-! ## Registers (spec/10_state.md) -/

/-- Write of a general-purpose register; none is hard-wired (R10). -/
def State.writeGpr (s : State) (r : Reg) (v : Word) : State := { s with gpr := s.gpr.set r v }

/-- The pc moved to `target`. -/
def State.setPc (s : State) (target : Word) : State := { s with pc := target }

/-- `pc <- (pc + 4) mod 2^32` (R12). -/
def State.advancePc (s : State) : State := s.setPc (s.pc + 4)

/-- The whole CR replaced. -/
def State.setCr (s : State) (v : Word) : State := { s with cr := v }

/-- The whole XER replaced. -/
def State.setXer (s : State) (v : Word) : State := { s with xer := v }

/-- CA written when the instruction's rule gives it a value (R17, R160). -/
def State.updateCa (s : State) : Option Bool → State
  | none => s
  | some c => s.setXer (withCa s.xer c)

/-- OV and SO written when the instruction has OE = 1 (R16). -/
def State.updateOverflow (s : State) : Option Bool → State
  | none => s
  | some v => s.setXer (withOverflow s.xer v)

/-- A CR field written: LT, GT, EQ, then a copy of XER[SO] as it is now (R13, R15, R115). -/
def State.setCrOrder (s : State) (k : CrIndex) (order : BitVec 3) : State :=
  s.setCr (withCrField s.cr k (order ++ BitVec.ofBool s.so))

/-- The record rule: CR0 written when the instruction records (R15). -/
def State.updateCr0 (s : State) : Option (BitVec 3) → State
  | none => s
  | some order => s.setCrOrder 0 order

/-- The next draw of DIV_UNDEF is a fresh one (R106, D7). -/
def State.countDraw (s : State) : State := { s with draws := s.draws + 1 }

/-- What an instruction with a target register does with its result, in the order of R21: the target, then CA, then OV
and SO, then CR0 with the SO just written, then the pc. `none` leaves the flag or the field unchanged. -/
def State.finish (s : State) (target : Reg) (result : Word) (ca ov : Option Bool) (order : Option (BitVec 3)) : State :=
  ((((s.writeGpr target result).updateCa ca).updateOverflow ov).updateCr0 order).advancePc

/-- A value that is written only in the variants that enable it. -/
def whenEnabled {α : Type} (enabled : Bool) (v : α) : Option α := if enabled then some v else none

/-! ## The exceptions (spec/60_exceptions.md) -/

/-- The vector offset of an exception, the column of R181's table: 0x00800 is the source's, the others are K11's. No
rule uses it, since no handler is entered (R191). -/
def ExceptionKind.vectorOffset : ExceptionKind → Word
  | .alignment => 0x00600
  | .systemCall => 0x00C00
  | .programTrap => 0x00700
  | .fpUnavailable => 0x00800
  | .programFpEnabled => 0x00700
  | .fpAssist => 0x00E00

/-- Where execution would resume: `next` of R180, `pc + 4` for the system call and the instruction itself for all
other kinds. -/
def State.resumeAddress (s : State) : ExceptionKind → Word
  | .systemCall => s.pc + 4
  | .alignment => s.pc
  | .programTrap => s.pc
  | .fpUnavailable => s.pc
  | .programFpEnabled => s.pc
  | .fpAssist => s.pc

/-- What the outcome `Exception(kind, at, next)` says of an exception raised by the instruction at the pc (R180). -/
def State.exceptionRecord (s : State) (kind : ExceptionKind) : ExceptionRecord :=
  { kind := kind, raisedAt := s.pc, next := s.resumeAddress kind }

/-- TAKING AN EXCEPTION (R21, R180, R191): the outcome of the step is `Exception(kind, at, next)`. Nothing is written, no
register is saved, no handler is entered, and the run is over. There is no return from an exception beside it, because
the spec has none (R192). Log entry 1. -/
def State.takeException (s : State) (kind : ExceptionKind) : Host.Outcome State Fault Refusal :=
  .fault (.exception (s.exceptionRecord kind))

/-- MSR[FP], bit 18 (R18; the position is K17's). -/
def State.fpEnabled (s : State) : Bool := s.msr.getMsbD 18

/-- The gate of R186 on "any floating-point instruction": with MSR[FP] = 0 the floating-point unavailable exception is
taken. No floating-point instruction is in scope, so no meaning calls it (R186, log entry 14). -/
def State.floatingPointGate (s : State) : Host.Outcome State Fault Refusal :=
  if s.fpEnabled then .next s else s.takeException .fpUnavailable

end Sys2Proof.Machine
end

