-- ==== Sys2Proof/Machine/AddSub.lean ====
section
/-! DEFINITION. Integer add, subtract and negate (spec/40_integer_add_subtract.md). -/

namespace Sys2Proof.Machine

/-- The family's one shape (R70): the sum of three addends is placed into rD; CA is written by the instructions of the
carry list (R17), OV and SO with OE = 1 (R16), CR0 with Rc = 1 (R15). -/
def State.sumInto (s : State) (setsCa oe rc : Bool) (rD : Reg) (op1 op2 : Word) (cin : Bool) : State :=
  let r := sum32 op1 op2 cin
  s.finish rD r (whenEnabled setsCa (carry32 op1 op2 cin)) (whenEnabled oe (ovf32 op1 op2 cin))
    (whenEnabled rc (resultOrder r))

/-- `addi` (R71): the sum (rA|0) + SIMM is placed into rD. -/
def execAddi (rD rA : Reg) (simm : BitVec 16) (s : State) : Host.Outcome State Fault Refusal :=
  .next (s.sumInto (setsCa := false) (oe := false) (rc := false) rD (s.readGprOrZero rA) (signExtended simm) false)

/-- `addis` (R72): the sum (rA|0) + (SIMM || 0x0000) is placed into rD. -/
def execAddis (rD rA : Reg) (simm : BitVec 16) (s : State) : Host.Outcome State Fault Refusal :=
  .next (s.sumInto (setsCa := false) (oe := false) (rc := false) rD (s.readGprOrZero rA) (shiftedImmediate simm) false)

/-- `add` (R73): the sum (rA) + (rB) is placed into rD. -/
def execAdd (rD rA rB : Reg) (s : State) : Host.Outcome State Fault Refusal :=
  .next (s.sumInto (setsCa := false) (oe := false) (rc := false) rD (s.readGpr rA) (s.readGpr rB) false)

/-- `add.` (R73): the sum (rA) + (rB) is placed into rD; CR0 recorded. -/
def execAddRc (rD rA rB : Reg) (s : State) : Host.Outcome State Fault Refusal :=
  .next (s.sumInto (setsCa := false) (oe := false) (rc := true) rD (s.readGpr rA) (s.readGpr rB) false)

/-- `addo` (R73): the sum (rA) + (rB) is placed into rD; OV and SO set. -/
def execAddo (rD rA rB : Reg) (s : State) : Host.Outcome State Fault Refusal :=
  .next (s.sumInto (setsCa := false) (oe := true) (rc := false) rD (s.readGpr rA) (s.readGpr rB) false)

/-- `addo.` (R73): the sum (rA) + (rB) is placed into rD; OV, SO and CR0 set. -/
def execAddoRc (rD rA rB : Reg) (s : State) : Host.Outcome State Fault Refusal :=
  .next (s.sumInto (setsCa := false) (oe := true) (rc := true) rD (s.readGpr rA) (s.readGpr rB) false)

/-- `subf` (R74): the sum ¬(rA) + (rB) + 1 is placed into rD. -/
def execSubf (rD rA rB : Reg) (s : State) : Host.Outcome State Fault Refusal :=
  .next (s.sumInto (setsCa := false) (oe := false) (rc := false) rD (~~~s.readGpr rA) (s.readGpr rB) true)

/-- `subf.` (R74): the sum ¬(rA) + (rB) + 1 is placed into rD; CR0 recorded. -/
def execSubfRc (rD rA rB : Reg) (s : State) : Host.Outcome State Fault Refusal :=
  .next (s.sumInto (setsCa := false) (oe := false) (rc := true) rD (~~~s.readGpr rA) (s.readGpr rB) true)

/-- `subfo` (R74): the sum ¬(rA) + (rB) + 1 is placed into rD; OV and SO set. -/
def execSubfo (rD rA rB : Reg) (s : State) : Host.Outcome State Fault Refusal :=
  .next (s.sumInto (setsCa := false) (oe := true) (rc := false) rD (~~~s.readGpr rA) (s.readGpr rB) true)

/-- `subfo.` (R74): the sum ¬(rA) + (rB) + 1 is placed into rD; OV, SO and CR0 set. -/
def execSubfoRc (rD rA rB : Reg) (s : State) : Host.Outcome State Fault Refusal :=
  .next (s.sumInto (setsCa := false) (oe := true) (rc := true) rD (~~~s.readGpr rA) (s.readGpr rB) true)

/-- `addic` (R75): the sum (rA) + SIMM is placed into rD, with CA. -/
def execAddic (rD rA : Reg) (simm : BitVec 16) (s : State) : Host.Outcome State Fault Refusal :=
  .next (s.sumInto (setsCa := true) (oe := false) (rc := false) rD (s.readGpr rA) (signExtended simm) false)

/-- `addic.` (R76): the sum (rA) + SIMM is placed into rD, with CA and CR0. -/
def execAddicRc (rD rA : Reg) (simm : BitVec 16) (s : State) : Host.Outcome State Fault Refusal :=
  .next (s.sumInto (setsCa := true) (oe := false) (rc := true) rD (s.readGpr rA) (signExtended simm) false)

/-- `subfic` (R77): the sum ¬(rA) + SIMM + 1 is placed into rD, with CA. -/
def execSubfic (rD rA : Reg) (simm : BitVec 16) (s : State) : Host.Outcome State Fault Refusal :=
  .next (s.sumInto (setsCa := true) (oe := false) (rc := false) rD (~~~s.readGpr rA) (signExtended simm) true)

/-- `addc` (R78): the sum (rA) + (rB) is placed into rD, with CA. -/
def execAddc (rD rA rB : Reg) (s : State) : Host.Outcome State Fault Refusal :=
  .next (s.sumInto (setsCa := true) (oe := false) (rc := false) rD (s.readGpr rA) (s.readGpr rB) false)

/-- `addc.` (R78): the sum (rA) + (rB) is placed into rD, with CA; CR0 recorded. -/
def execAddcRc (rD rA rB : Reg) (s : State) : Host.Outcome State Fault Refusal :=
  .next (s.sumInto (setsCa := true) (oe := false) (rc := true) rD (s.readGpr rA) (s.readGpr rB) false)

/-- `addco` (R78): the sum (rA) + (rB) is placed into rD, with CA; OV and SO set. -/
def execAddco (rD rA rB : Reg) (s : State) : Host.Outcome State Fault Refusal :=
  .next (s.sumInto (setsCa := true) (oe := true) (rc := false) rD (s.readGpr rA) (s.readGpr rB) false)

/-- `addco.` (R78): the sum (rA) + (rB) is placed into rD, with CA; OV, SO and CR0 set. -/
def execAddcoRc (rD rA rB : Reg) (s : State) : Host.Outcome State Fault Refusal :=
  .next (s.sumInto (setsCa := true) (oe := true) (rc := true) rD (s.readGpr rA) (s.readGpr rB) false)

/-- `subfc` (R79): the sum ¬(rA) + (rB) + 1 is placed into rD, with CA. -/
def execSubfc (rD rA rB : Reg) (s : State) : Host.Outcome State Fault Refusal :=
  .next (s.sumInto (setsCa := true) (oe := false) (rc := false) rD (~~~s.readGpr rA) (s.readGpr rB) true)

/-- `subfc.` (R79): the sum ¬(rA) + (rB) + 1 is placed into rD, with CA; CR0 recorded. -/
def execSubfcRc (rD rA rB : Reg) (s : State) : Host.Outcome State Fault Refusal :=
  .next (s.sumInto (setsCa := true) (oe := false) (rc := true) rD (~~~s.readGpr rA) (s.readGpr rB) true)

/-- `subfco` (R79): the sum ¬(rA) + (rB) + 1 is placed into rD, with CA; OV and SO set. -/
def execSubfco (rD rA rB : Reg) (s : State) : Host.Outcome State Fault Refusal :=
  .next (s.sumInto (setsCa := true) (oe := true) (rc := false) rD (~~~s.readGpr rA) (s.readGpr rB) true)

/-- `subfco.` (R79): the sum ¬(rA) + (rB) + 1 is placed into rD, with CA; OV, SO and CR0 set. -/
def execSubfcoRc (rD rA rB : Reg) (s : State) : Host.Outcome State Fault Refusal :=
  .next (s.sumInto (setsCa := true) (oe := true) (rc := true) rD (~~~s.readGpr rA) (s.readGpr rB) true)

/-- `adde` (R80): the sum (rA) + (rB) + XER[CA] is placed into rD, with CA. -/
def execAdde (rD rA rB : Reg) (s : State) : Host.Outcome State Fault Refusal :=
  .next (s.sumInto (setsCa := true) (oe := false) (rc := false) rD (s.readGpr rA) (s.readGpr rB) s.ca)

/-- `adde.` (R80): the sum (rA) + (rB) + XER[CA] is placed into rD, with CA; CR0 recorded. -/
def execAddeRc (rD rA rB : Reg) (s : State) : Host.Outcome State Fault Refusal :=
  .next (s.sumInto (setsCa := true) (oe := false) (rc := true) rD (s.readGpr rA) (s.readGpr rB) s.ca)

/-- `addeo` (R80): the sum (rA) + (rB) + XER[CA] is placed into rD, with CA; OV and SO set. -/
def execAddeo (rD rA rB : Reg) (s : State) : Host.Outcome State Fault Refusal :=
  .next (s.sumInto (setsCa := true) (oe := true) (rc := false) rD (s.readGpr rA) (s.readGpr rB) s.ca)

/-- `addeo.` (R80): the sum (rA) + (rB) + XER[CA] is placed into rD, with CA; OV, SO and CR0 set. -/
def execAddeoRc (rD rA rB : Reg) (s : State) : Host.Outcome State Fault Refusal :=
  .next (s.sumInto (setsCa := true) (oe := true) (rc := true) rD (s.readGpr rA) (s.readGpr rB) s.ca)

/-- `subfe` (R81): the sum ¬(rA) + (rB) + XER[CA] is placed into rD, with CA. -/
def execSubfe (rD rA rB : Reg) (s : State) : Host.Outcome State Fault Refusal :=
  .next (s.sumInto (setsCa := true) (oe := false) (rc := false) rD (~~~s.readGpr rA) (s.readGpr rB) s.ca)

/-- `subfe.` (R81): the sum ¬(rA) + (rB) + XER[CA] is placed into rD, with CA; CR0 recorded. -/
def execSubfeRc (rD rA rB : Reg) (s : State) : Host.Outcome State Fault Refusal :=
  .next (s.sumInto (setsCa := true) (oe := false) (rc := true) rD (~~~s.readGpr rA) (s.readGpr rB) s.ca)

/-- `subfeo` (R81): the sum ¬(rA) + (rB) + XER[CA] is placed into rD, with CA; OV and SO set. -/
def execSubfeo (rD rA rB : Reg) (s : State) : Host.Outcome State Fault Refusal :=
  .next (s.sumInto (setsCa := true) (oe := true) (rc := false) rD (~~~s.readGpr rA) (s.readGpr rB) s.ca)

/-- `subfeo.` (R81): the sum ¬(rA) + (rB) + XER[CA] is placed into rD, with CA; OV, SO and CR0 set. -/
def execSubfeoRc (rD rA rB : Reg) (s : State) : Host.Outcome State Fault Refusal :=
  .next (s.sumInto (setsCa := true) (oe := true) (rc := true) rD (~~~s.readGpr rA) (s.readGpr rB) s.ca)

/-- `addme` (R82): the sum (rA) + XER[CA] added to 0xFFFF_FFFF is placed into rD, with CA. -/
def execAddme (rD rA : Reg) (s : State) : Host.Outcome State Fault Refusal :=
  .next (s.sumInto (setsCa := true) (oe := false) (rc := false) rD (s.readGpr rA) 0xFFFFFFFF s.ca)

/-- `addme.` (R82): the sum (rA) + XER[CA] added to 0xFFFF_FFFF is placed into rD, with CA; CR0 recorded. -/
def execAddmeRc (rD rA : Reg) (s : State) : Host.Outcome State Fault Refusal :=
  .next (s.sumInto (setsCa := true) (oe := false) (rc := true) rD (s.readGpr rA) 0xFFFFFFFF s.ca)

/-- `addmeo` (R82): the sum (rA) + XER[CA] added to 0xFFFF_FFFF is placed into rD, with CA; OV and SO set. -/
def execAddmeo (rD rA : Reg) (s : State) : Host.Outcome State Fault Refusal :=
  .next (s.sumInto (setsCa := true) (oe := true) (rc := false) rD (s.readGpr rA) 0xFFFFFFFF s.ca)

/-- `addmeo.` (R82): the sum (rA) + XER[CA] added to 0xFFFF_FFFF is placed into rD, with CA; OV, SO and CR0 set. -/
def execAddmeoRc (rD rA : Reg) (s : State) : Host.Outcome State Fault Refusal :=
  .next (s.sumInto (setsCa := true) (oe := true) (rc := true) rD (s.readGpr rA) 0xFFFFFFFF s.ca)

/-- `subfme` (R83): the sum ¬(rA) + XER[CA] added to 0xFFFF_FFFF is placed into rD, with CA. -/
def execSubfme (rD rA : Reg) (s : State) : Host.Outcome State Fault Refusal :=
  .next (s.sumInto (setsCa := true) (oe := false) (rc := false) rD (~~~s.readGpr rA) 0xFFFFFFFF s.ca)

/-- `subfme.` (R83): the sum ¬(rA) + XER[CA] added to 0xFFFF_FFFF is placed into rD, with CA; CR0 recorded. -/
def execSubfmeRc (rD rA : Reg) (s : State) : Host.Outcome State Fault Refusal :=
  .next (s.sumInto (setsCa := true) (oe := false) (rc := true) rD (~~~s.readGpr rA) 0xFFFFFFFF s.ca)

/-- `subfmeo` (R83): the sum ¬(rA) + XER[CA] added to 0xFFFF_FFFF is placed into rD, with CA; OV and SO set. -/
def execSubfmeo (rD rA : Reg) (s : State) : Host.Outcome State Fault Refusal :=
  .next (s.sumInto (setsCa := true) (oe := true) (rc := false) rD (~~~s.readGpr rA) 0xFFFFFFFF s.ca)

/-- `subfmeo.` (R83): the sum ¬(rA) + XER[CA] added to 0xFFFF_FFFF is placed into rD, with CA; OV, SO and CR0 set. -/
def execSubfmeoRc (rD rA : Reg) (s : State) : Host.Outcome State Fault Refusal :=
  .next (s.sumInto (setsCa := true) (oe := true) (rc := true) rD (~~~s.readGpr rA) 0xFFFFFFFF s.ca)

/-- `addze` (R84): the sum (rA) + XER[CA] is placed into rD, with CA. -/
def execAddze (rD rA : Reg) (s : State) : Host.Outcome State Fault Refusal :=
  .next (s.sumInto (setsCa := true) (oe := false) (rc := false) rD (s.readGpr rA) 0 s.ca)

/-- `addze.` (R84): the sum (rA) + XER[CA] is placed into rD, with CA; CR0 recorded. -/
def execAddzeRc (rD rA : Reg) (s : State) : Host.Outcome State Fault Refusal :=
  .next (s.sumInto (setsCa := true) (oe := false) (rc := true) rD (s.readGpr rA) 0 s.ca)

/-- `addzeo` (R84): the sum (rA) + XER[CA] is placed into rD, with CA; OV and SO set. -/
def execAddzeo (rD rA : Reg) (s : State) : Host.Outcome State Fault Refusal :=
  .next (s.sumInto (setsCa := true) (oe := true) (rc := false) rD (s.readGpr rA) 0 s.ca)

/-- `addzeo.` (R84): the sum (rA) + XER[CA] is placed into rD, with CA; OV, SO and CR0 set. -/
def execAddzeoRc (rD rA : Reg) (s : State) : Host.Outcome State Fault Refusal :=
  .next (s.sumInto (setsCa := true) (oe := true) (rc := true) rD (s.readGpr rA) 0 s.ca)

/-- `subfze` (R85): the sum ¬(rA) + XER[CA] is placed into rD, with CA. -/
def execSubfze (rD rA : Reg) (s : State) : Host.Outcome State Fault Refusal :=
  .next (s.sumInto (setsCa := true) (oe := false) (rc := false) rD (~~~s.readGpr rA) 0 s.ca)

/-- `subfze.` (R85): the sum ¬(rA) + XER[CA] is placed into rD, with CA; CR0 recorded. -/
def execSubfzeRc (rD rA : Reg) (s : State) : Host.Outcome State Fault Refusal :=
  .next (s.sumInto (setsCa := true) (oe := false) (rc := true) rD (~~~s.readGpr rA) 0 s.ca)

/-- `subfzeo` (R85): the sum ¬(rA) + XER[CA] is placed into rD, with CA; OV and SO set. -/
def execSubfzeo (rD rA : Reg) (s : State) : Host.Outcome State Fault Refusal :=
  .next (s.sumInto (setsCa := true) (oe := true) (rc := false) rD (~~~s.readGpr rA) 0 s.ca)

/-- `subfzeo.` (R85): the sum ¬(rA) + XER[CA] is placed into rD, with CA; OV, SO and CR0 set. -/
def execSubfzeoRc (rD rA : Reg) (s : State) : Host.Outcome State Fault Refusal :=
  .next (s.sumInto (setsCa := true) (oe := true) (rc := true) rD (~~~s.readGpr rA) 0 s.ca)

/-- `neg` (R86): the sum ¬(rA) + 1 is placed into rD. -/
def execNeg (rD rA : Reg) (s : State) : Host.Outcome State Fault Refusal :=
  .next (s.sumInto (setsCa := false) (oe := false) (rc := false) rD (~~~s.readGpr rA) 0 true)

/-- `neg.` (R86): the sum ¬(rA) + 1 is placed into rD; CR0 recorded. -/
def execNegRc (rD rA : Reg) (s : State) : Host.Outcome State Fault Refusal :=
  .next (s.sumInto (setsCa := false) (oe := false) (rc := true) rD (~~~s.readGpr rA) 0 true)

/-- `nego` (R86): the sum ¬(rA) + 1 is placed into rD; OV and SO set. -/
def execNego (rD rA : Reg) (s : State) : Host.Outcome State Fault Refusal :=
  .next (s.sumInto (setsCa := false) (oe := true) (rc := false) rD (~~~s.readGpr rA) 0 true)

/-- `nego.` (R86): the sum ¬(rA) + 1 is placed into rD; OV, SO and CR0 set. -/
def execNegoRc (rD rA : Reg) (s : State) : Host.Outcome State Fault Refusal :=
  .next (s.sumInto (setsCa := false) (oe := true) (rc := true) rD (~~~s.readGpr rA) 0 true)

end Sys2Proof.Machine
end

