-- ==== Sys2Proof/Syntax.lean ====
section
/-! DEFINITION. The instructions: one constructor per row of spec/opcode_table.json, operands in the order the
assembler writes them (spec/30_encoding.md R64). A mnemonic's final dot (Rc = 1) is the suffix `Rc` of the
constructor's name, its `o` (OE = 1) stands as in the mnemonic (spec/00_scope.md R5). -/

namespace Sys2Proof

/-- The instructions of the machine. -/
inductive Instr where
  -- Add, subtract and negate (spec/40_integer_add_subtract.md)
  /-- `addi` (R71) -/
  | addi (rD rA : Reg) (simm : BitVec 16)
  /-- `addis` (R72) -/
  | addis (rD rA : Reg) (simm : BitVec 16)
  /-- `add` (R73) -/
  | add (rD rA rB : Reg)
  /-- `add.` (R73) -/
  | addRc (rD rA rB : Reg)
  /-- `addo` (R73) -/
  | addo (rD rA rB : Reg)
  /-- `addo.` (R73) -/
  | addoRc (rD rA rB : Reg)
  /-- `subf` (R74) -/
  | subf (rD rA rB : Reg)
  /-- `subf.` (R74) -/
  | subfRc (rD rA rB : Reg)
  /-- `subfo` (R74) -/
  | subfo (rD rA rB : Reg)
  /-- `subfo.` (R74) -/
  | subfoRc (rD rA rB : Reg)
  /-- `addic` (R75) -/
  | addic (rD rA : Reg) (simm : BitVec 16)
  /-- `addic.` (R76) -/
  | addicRc (rD rA : Reg) (simm : BitVec 16)
  /-- `subfic` (R77) -/
  | subfic (rD rA : Reg) (simm : BitVec 16)
  /-- `addc` (R78) -/
  | addc (rD rA rB : Reg)
  /-- `addc.` (R78) -/
  | addcRc (rD rA rB : Reg)
  /-- `addco` (R78) -/
  | addco (rD rA rB : Reg)
  /-- `addco.` (R78) -/
  | addcoRc (rD rA rB : Reg)
  /-- `subfc` (R79) -/
  | subfc (rD rA rB : Reg)
  /-- `subfc.` (R79) -/
  | subfcRc (rD rA rB : Reg)
  /-- `subfco` (R79) -/
  | subfco (rD rA rB : Reg)
  /-- `subfco.` (R79) -/
  | subfcoRc (rD rA rB : Reg)
  /-- `adde` (R80) -/
  | adde (rD rA rB : Reg)
  /-- `adde.` (R80) -/
  | addeRc (rD rA rB : Reg)
  /-- `addeo` (R80) -/
  | addeo (rD rA rB : Reg)
  /-- `addeo.` (R80) -/
  | addeoRc (rD rA rB : Reg)
  /-- `subfe` (R81) -/
  | subfe (rD rA rB : Reg)
  /-- `subfe.` (R81) -/
  | subfeRc (rD rA rB : Reg)
  /-- `subfeo` (R81) -/
  | subfeo (rD rA rB : Reg)
  /-- `subfeo.` (R81) -/
  | subfeoRc (rD rA rB : Reg)
  /-- `addme` (R82) -/
  | addme (rD rA : Reg)
  /-- `addme.` (R82) -/
  | addmeRc (rD rA : Reg)
  /-- `addmeo` (R82) -/
  | addmeo (rD rA : Reg)
  /-- `addmeo.` (R82) -/
  | addmeoRc (rD rA : Reg)
  /-- `subfme` (R83) -/
  | subfme (rD rA : Reg)
  /-- `subfme.` (R83) -/
  | subfmeRc (rD rA : Reg)
  /-- `subfmeo` (R83) -/
  | subfmeo (rD rA : Reg)
  /-- `subfmeo.` (R83) -/
  | subfmeoRc (rD rA : Reg)
  /-- `addze` (R84) -/
  | addze (rD rA : Reg)
  /-- `addze.` (R84) -/
  | addzeRc (rD rA : Reg)
  /-- `addzeo` (R84) -/
  | addzeo (rD rA : Reg)
  /-- `addzeo.` (R84) -/
  | addzeoRc (rD rA : Reg)
  /-- `subfze` (R85) -/
  | subfze (rD rA : Reg)
  /-- `subfze.` (R85) -/
  | subfzeRc (rD rA : Reg)
  /-- `subfzeo` (R85) -/
  | subfzeo (rD rA : Reg)
  /-- `subfzeo.` (R85) -/
  | subfzeoRc (rD rA : Reg)
  /-- `neg` (R86) -/
  | neg (rD rA : Reg)
  /-- `neg.` (R86) -/
  | negRc (rD rA : Reg)
  /-- `nego` (R86) -/
  | nego (rD rA : Reg)
  /-- `nego.` (R86) -/
  | negoRc (rD rA : Reg)
  -- Multiply and divide (spec/41_integer_multiply_divide.md)
  /-- `mulli` (R100) -/
  | mulli (rD rA : Reg) (simm : BitVec 16)
  /-- `mullw` (R101) -/
  | mullw (rD rA rB : Reg)
  /-- `mullw.` (R101) -/
  | mullwRc (rD rA rB : Reg)
  /-- `mullwo` (R101) -/
  | mullwo (rD rA rB : Reg)
  /-- `mullwo.` (R101) -/
  | mullwoRc (rD rA rB : Reg)
  /-- `mulhw` (R102) -/
  | mulhw (rD rA rB : Reg)
  /-- `mulhw.` (R102) -/
  | mulhwRc (rD rA rB : Reg)
  /-- `mulhwu` (R103) -/
  | mulhwu (rD rA rB : Reg)
  /-- `mulhwu.` (R103) -/
  | mulhwuRc (rD rA rB : Reg)
  /-- `divw` (R104) -/
  | divw (rD rA rB : Reg)
  /-- `divw.` (R104) -/
  | divwRc (rD rA rB : Reg)
  /-- `divwo` (R104) -/
  | divwo (rD rA rB : Reg)
  /-- `divwo.` (R104) -/
  | divwoRc (rD rA rB : Reg)
  /-- `divwu` (R105) -/
  | divwu (rD rA rB : Reg)
  /-- `divwu.` (R105) -/
  | divwuRc (rD rA rB : Reg)
  /-- `divwuo` (R105) -/
  | divwuo (rD rA rB : Reg)
  /-- `divwuo.` (R105) -/
  | divwuoRc (rD rA rB : Reg)
  -- Compare (spec/42_integer_compare.md)
  /-- `cmpi` (R116) -/
  | cmpi (crfD : CrIndex) (l : Bool) (rA : Reg) (simm : BitVec 16)
  /-- `cmp` (R117) -/
  | cmp (crfD : CrIndex) (l : Bool) (rA rB : Reg)
  /-- `cmpli` (R118) -/
  | cmpli (crfD : CrIndex) (l : Bool) (rA : Reg) (uimm : BitVec 16)
  /-- `cmpl` (R119) -/
  | cmpl (crfD : CrIndex) (l : Bool) (rA rB : Reg)
  -- Logical (spec/43_integer_logical.md)
  /-- `andi.` (R126) -/
  | andiRc (rA rS : Reg) (uimm : BitVec 16)
  /-- `andis.` (R127) -/
  | andisRc (rA rS : Reg) (uimm : BitVec 16)
  /-- `ori` (R128) -/
  | ori (rA rS : Reg) (uimm : BitVec 16)
  /-- `oris` (R129) -/
  | oris (rA rS : Reg) (uimm : BitVec 16)
  /-- `xori` (R130) -/
  | xori (rA rS : Reg) (uimm : BitVec 16)
  /-- `xoris` (R131) -/
  | xoris (rA rS : Reg) (uimm : BitVec 16)
  /-- `and` (R132) -/
  | and (rA rS rB : Reg)
  /-- `and.` (R132) -/
  | andRc (rA rS rB : Reg)
  /-- `or` (R133) -/
  | or (rA rS rB : Reg)
  /-- `or.` (R133) -/
  | orRc (rA rS rB : Reg)
  /-- `xor` (R134) -/
  | xor (rA rS rB : Reg)
  /-- `xor.` (R134) -/
  | xorRc (rA rS rB : Reg)
  /-- `nand` (R135) -/
  | nand (rA rS rB : Reg)
  /-- `nand.` (R135) -/
  | nandRc (rA rS rB : Reg)
  /-- `nor` (R136) -/
  | nor (rA rS rB : Reg)
  /-- `nor.` (R136) -/
  | norRc (rA rS rB : Reg)
  /-- `eqv` (R137) -/
  | eqv (rA rS rB : Reg)
  /-- `eqv.` (R137) -/
  | eqvRc (rA rS rB : Reg)
  /-- `andc` (R138) -/
  | andc (rA rS rB : Reg)
  /-- `andc.` (R138) -/
  | andcRc (rA rS rB : Reg)
  /-- `orc` (R139) -/
  | orc (rA rS rB : Reg)
  /-- `orc.` (R139) -/
  | orcRc (rA rS rB : Reg)
  /-- `extsb` (R140) -/
  | extsb (rA rS : Reg)
  /-- `extsb.` (R140) -/
  | extsbRc (rA rS : Reg)
  /-- `extsh` (R141) -/
  | extsh (rA rS : Reg)
  /-- `extsh.` (R141) -/
  | extshRc (rA rS : Reg)
  /-- `cntlzw` (R142) -/
  | cntlzw (rA rS : Reg)
  /-- `cntlzw.` (R142) -/
  | cntlzwRc (rA rS : Reg)
  -- Rotate (spec/44_integer_rotate.md)
  /-- `rlwinm` (R153) -/
  | rlwinm (rA rS : Reg) (sh mb me : BitPos)
  /-- `rlwinm.` (R153) -/
  | rlwinmRc (rA rS : Reg) (sh mb me : BitPos)
  /-- `rlwnm` (R154) -/
  | rlwnm (rA rS rB : Reg) (mb me : BitPos)
  /-- `rlwnm.` (R154) -/
  | rlwnmRc (rA rS rB : Reg) (mb me : BitPos)
  /-- `rlwimi` (R155) -/
  | rlwimi (rA rS : Reg) (sh mb me : BitPos)
  /-- `rlwimi.` (R155) -/
  | rlwimiRc (rA rS : Reg) (sh mb me : BitPos)
  -- Shift (spec/45_integer_shift.md)
  /-- `slw` (R161) -/
  | slw (rA rS rB : Reg)
  /-- `slw.` (R161) -/
  | slwRc (rA rS rB : Reg)
  /-- `srw` (R162) -/
  | srw (rA rS rB : Reg)
  /-- `srw.` (R162) -/
  | srwRc (rA rS rB : Reg)
  /-- `srawi` (R163) -/
  | srawi (rA rS : Reg) (sh : BitPos)
  /-- `srawi.` (R163) -/
  | srawiRc (rA rS : Reg) (sh : BitPos)
  /-- `sraw` (R164) -/
  | sraw (rA rS rB : Reg)
  /-- `sraw.` (R164) -/
  | srawRc (rA rS rB : Reg)
  -- System call and trap (spec/46_system_call_and_trap.md)
  /-- `sc` (R170) -/
  | sc
  /-- `twi` (R172) -/
  | twi (trapOn : BitVec 5) (rA : Reg) (simm : BitVec 16)
  /-- `tw` (R173) -/
  | tw (trapOn : BitVec 5) (rA rB : Reg)
deriving DecidableEq, Repr

end Sys2Proof
end

