-- ==== Sys2Proof/WellFormed.lean ====
section
/-! DEFINITION. Which instructions are valid forms. The types of the operands already bound every register number,
immediate, shift amount, mask position, CR field and TO condition; what is left is the L operand of the compares. -/

namespace Sys2Proof

/-- "For 32-bit implementations, the L field must be cleared, otherwise the instruction form is invalid" (R61, R115):
a compare is well-formed when its L operand is 0; every other instruction is, whatever its operands. -/
def Instr.wellFormed : Instr → Bool
  | .addi _ _ _ => true
  | .addis _ _ _ => true
  | .add _ _ _ => true
  | .addRc _ _ _ => true
  | .addo _ _ _ => true
  | .addoRc _ _ _ => true
  | .subf _ _ _ => true
  | .subfRc _ _ _ => true
  | .subfo _ _ _ => true
  | .subfoRc _ _ _ => true
  | .addic _ _ _ => true
  | .addicRc _ _ _ => true
  | .subfic _ _ _ => true
  | .addc _ _ _ => true
  | .addcRc _ _ _ => true
  | .addco _ _ _ => true
  | .addcoRc _ _ _ => true
  | .subfc _ _ _ => true
  | .subfcRc _ _ _ => true
  | .subfco _ _ _ => true
  | .subfcoRc _ _ _ => true
  | .adde _ _ _ => true
  | .addeRc _ _ _ => true
  | .addeo _ _ _ => true
  | .addeoRc _ _ _ => true
  | .subfe _ _ _ => true
  | .subfeRc _ _ _ => true
  | .subfeo _ _ _ => true
  | .subfeoRc _ _ _ => true
  | .addme _ _ => true
  | .addmeRc _ _ => true
  | .addmeo _ _ => true
  | .addmeoRc _ _ => true
  | .subfme _ _ => true
  | .subfmeRc _ _ => true
  | .subfmeo _ _ => true
  | .subfmeoRc _ _ => true
  | .addze _ _ => true
  | .addzeRc _ _ => true
  | .addzeo _ _ => true
  | .addzeoRc _ _ => true
  | .subfze _ _ => true
  | .subfzeRc _ _ => true
  | .subfzeo _ _ => true
  | .subfzeoRc _ _ => true
  | .neg _ _ => true
  | .negRc _ _ => true
  | .nego _ _ => true
  | .negoRc _ _ => true
  | .mulli _ _ _ => true
  | .mullw _ _ _ => true
  | .mullwRc _ _ _ => true
  | .mullwo _ _ _ => true
  | .mullwoRc _ _ _ => true
  | .mulhw _ _ _ => true
  | .mulhwRc _ _ _ => true
  | .mulhwu _ _ _ => true
  | .mulhwuRc _ _ _ => true
  | .divw _ _ _ => true
  | .divwRc _ _ _ => true
  | .divwo _ _ _ => true
  | .divwoRc _ _ _ => true
  | .divwu _ _ _ => true
  | .divwuRc _ _ _ => true
  | .divwuo _ _ _ => true
  | .divwuoRc _ _ _ => true
  | .cmpi _ l _ _ => !l
  | .cmp _ l _ _ => !l
  | .cmpli _ l _ _ => !l
  | .cmpl _ l _ _ => !l
  | .andiRc _ _ _ => true
  | .andisRc _ _ _ => true
  | .ori _ _ _ => true
  | .oris _ _ _ => true
  | .xori _ _ _ => true
  | .xoris _ _ _ => true
  | .and _ _ _ => true
  | .andRc _ _ _ => true
  | .or _ _ _ => true
  | .orRc _ _ _ => true
  | .xor _ _ _ => true
  | .xorRc _ _ _ => true
  | .nand _ _ _ => true
  | .nandRc _ _ _ => true
  | .nor _ _ _ => true
  | .norRc _ _ _ => true
  | .eqv _ _ _ => true
  | .eqvRc _ _ _ => true
  | .andc _ _ _ => true
  | .andcRc _ _ _ => true
  | .orc _ _ _ => true
  | .orcRc _ _ _ => true
  | .extsb _ _ => true
  | .extsbRc _ _ => true
  | .extsh _ _ => true
  | .extshRc _ _ => true
  | .cntlzw _ _ => true
  | .cntlzwRc _ _ => true
  | .rlwinm _ _ _ _ _ => true
  | .rlwinmRc _ _ _ _ _ => true
  | .rlwnm _ _ _ _ _ => true
  | .rlwnmRc _ _ _ _ _ => true
  | .rlwimi _ _ _ _ _ => true
  | .rlwimiRc _ _ _ _ _ => true
  | .slw _ _ _ => true
  | .slwRc _ _ _ => true
  | .srw _ _ _ => true
  | .srwRc _ _ _ => true
  | .srawi _ _ _ => true
  | .srawiRc _ _ _ => true
  | .sraw _ _ _ => true
  | .srawRc _ _ _ => true
  | .sc => true
  | .twi _ _ _ => true
  | .tw _ _ _ => true

end Sys2Proof
end

