-- ==== Sys2Proof/Decode.lean ====
section
/-! DEFINITION. Decoding and encoding (spec/30_encoding.md). Bit `i` of the manual, numbered from the most significant
end (R2), is bit `31 - i` of the BitVec; each field below is R46's, with the manual's bits in its docstring. The
positions and opcode numbers are the spec's general knowledge K1, adopted by D15 (log entry 8). -/

namespace Sys2Proof

/-- What a word decodes to (R55): an instruction of the table, an invalid form (R60, R61), or a word the spec gives no
meaning (R62). Every word gets exactly one. -/
inductive Decoded where
  | instr (i : Instr)
  | invalidForm
  | refused
deriving DecidableEq, Repr

/-! ## Fields of a word (R46) -/

/-- OPCD, bits 0:5. -/
def fieldOpcd (w : Word) : BitVec 6 := w.extractLsb' 26 6

/-- rD or rS, bits 6:10. -/
def fieldD (w : Word) : Reg := (w.extractLsb' 21 5).toFin

/-- TO, bits 6:10. -/
def fieldTo (w : Word) : BitVec 5 := w.extractLsb' 21 5

/-- crfD, bits 6:8. -/
def fieldCrfD (w : Word) : CrIndex := (w.extractLsb' 23 3).toFin

/-- The reserved bit 9 of the compares. -/
def fieldBit9 (w : Word) : Bool := w.getLsbD 22

/-- L, bit 10. -/
def fieldL (w : Word) : Bool := w.getLsbD 21

/-- rA, bits 11:15. -/
def fieldA (w : Word) : Reg := (w.extractLsb' 16 5).toFin

/-- rB or SH, bits 16:20. -/
def fieldB (w : Word) : Fin 32 := (w.extractLsb' 11 5).toFin

/-- SIMM or UIMM, bits 16:31. -/
def fieldImm (w : Word) : BitVec 16 := w.extractLsb' 0 16

/-- OE, bit 21. -/
def fieldOe (w : Word) : Bool := w.getLsbD 10

/-- The 9-bit extended opcode of the XO-form, bits 22:30. -/
def fieldXo9 (w : Word) : BitVec 9 := w.extractLsb' 1 9

/-- The 10-bit extended opcode of the X-form, bits 21:30. -/
def fieldXo10 (w : Word) : BitVec 10 := w.extractLsb' 1 10

/-- MB, bits 21:25. -/
def fieldMb (w : Word) : BitPos := (w.extractLsb' 6 5).toFin

/-- ME, bits 26:30. -/
def fieldMe (w : Word) : BitPos := (w.extractLsb' 1 5).toFin

/-- Rc, bit 31. -/
def fieldRc (w : Word) : Bool := w.getLsbD 0

/-! ## Decoding (R55) -/

/-- The variant that the Rc bit selects (R54). -/
def selectRc (w : Word) (plain record : Instr) : Decoded :=
  .instr (if fieldRc w then record else plain)

/-- The variant that the OE and Rc bits select (R54). -/
def selectOeRc (w : Word) (plain record overflow overflowRecord : Instr) : Decoded :=
  if fieldOe w then selectRc w overflow overflowRecord else selectRc w plain record

/-- The reserved-field check that ends the decode procedure (R55, R60, R61): a word with a reserved bit set is an
invalid form. -/
def unlessReserved (reservedBitSet : Bool) (d : Decoded) : Decoded :=
  if reservedBitSet then .invalidForm else d

/-- The XO-form table of R57, searched by the 9-bit XO. -/
def decodeXoForm (w : Word) : Decoded :=
  match (fieldXo9 w).toNat with
  | 8 => selectOeRc w
      (.subfc (fieldD w) (fieldA w) (fieldB w)) (.subfcRc (fieldD w) (fieldA w) (fieldB w))
      (.subfco (fieldD w) (fieldA w) (fieldB w)) (.subfcoRc (fieldD w) (fieldA w) (fieldB w))
  | 10 => selectOeRc w
      (.addc (fieldD w) (fieldA w) (fieldB w)) (.addcRc (fieldD w) (fieldA w) (fieldB w))
      (.addco (fieldD w) (fieldA w) (fieldB w)) (.addcoRc (fieldD w) (fieldA w) (fieldB w))
  | 11 => unlessReserved (fieldOe w) (selectRc w
      (.mulhwu (fieldD w) (fieldA w) (fieldB w)) (.mulhwuRc (fieldD w) (fieldA w) (fieldB w)))
  | 40 => selectOeRc w
      (.subf (fieldD w) (fieldA w) (fieldB w)) (.subfRc (fieldD w) (fieldA w) (fieldB w))
      (.subfo (fieldD w) (fieldA w) (fieldB w)) (.subfoRc (fieldD w) (fieldA w) (fieldB w))
  | 75 => unlessReserved (fieldOe w) (selectRc w
      (.mulhw (fieldD w) (fieldA w) (fieldB w)) (.mulhwRc (fieldD w) (fieldA w) (fieldB w)))
  | 104 => unlessReserved (fieldB w != 0) (selectOeRc w
      (.neg (fieldD w) (fieldA w)) (.negRc (fieldD w) (fieldA w))
      (.nego (fieldD w) (fieldA w)) (.negoRc (fieldD w) (fieldA w)))
  | 136 => selectOeRc w
      (.subfe (fieldD w) (fieldA w) (fieldB w)) (.subfeRc (fieldD w) (fieldA w) (fieldB w))
      (.subfeo (fieldD w) (fieldA w) (fieldB w)) (.subfeoRc (fieldD w) (fieldA w) (fieldB w))
  | 138 => selectOeRc w
      (.adde (fieldD w) (fieldA w) (fieldB w)) (.addeRc (fieldD w) (fieldA w) (fieldB w))
      (.addeo (fieldD w) (fieldA w) (fieldB w)) (.addeoRc (fieldD w) (fieldA w) (fieldB w))
  | 200 => unlessReserved (fieldB w != 0) (selectOeRc w
      (.subfze (fieldD w) (fieldA w)) (.subfzeRc (fieldD w) (fieldA w))
      (.subfzeo (fieldD w) (fieldA w)) (.subfzeoRc (fieldD w) (fieldA w)))
  | 202 => unlessReserved (fieldB w != 0) (selectOeRc w
      (.addze (fieldD w) (fieldA w)) (.addzeRc (fieldD w) (fieldA w))
      (.addzeo (fieldD w) (fieldA w)) (.addzeoRc (fieldD w) (fieldA w)))
  | 232 => unlessReserved (fieldB w != 0) (selectOeRc w
      (.subfme (fieldD w) (fieldA w)) (.subfmeRc (fieldD w) (fieldA w))
      (.subfmeo (fieldD w) (fieldA w)) (.subfmeoRc (fieldD w) (fieldA w)))
  | 234 => unlessReserved (fieldB w != 0) (selectOeRc w
      (.addme (fieldD w) (fieldA w)) (.addmeRc (fieldD w) (fieldA w))
      (.addmeo (fieldD w) (fieldA w)) (.addmeoRc (fieldD w) (fieldA w)))
  | 235 => selectOeRc w
      (.mullw (fieldD w) (fieldA w) (fieldB w)) (.mullwRc (fieldD w) (fieldA w) (fieldB w))
      (.mullwo (fieldD w) (fieldA w) (fieldB w)) (.mullwoRc (fieldD w) (fieldA w) (fieldB w))
  | 266 => selectOeRc w
      (.add (fieldD w) (fieldA w) (fieldB w)) (.addRc (fieldD w) (fieldA w) (fieldB w))
      (.addo (fieldD w) (fieldA w) (fieldB w)) (.addoRc (fieldD w) (fieldA w) (fieldB w))
  | 459 => selectOeRc w
      (.divwu (fieldD w) (fieldA w) (fieldB w)) (.divwuRc (fieldD w) (fieldA w) (fieldB w))
      (.divwuo (fieldD w) (fieldA w) (fieldB w)) (.divwuoRc (fieldD w) (fieldA w) (fieldB w))
  | 491 => selectOeRc w
      (.divw (fieldD w) (fieldA w) (fieldB w)) (.divwRc (fieldD w) (fieldA w) (fieldB w))
      (.divwo (fieldD w) (fieldA w) (fieldB w)) (.divwoRc (fieldD w) (fieldA w) (fieldB w))
  | _ => .refused

/-- The words of OPCD 31: the X-form table of R57, searched by the 10-bit XO, then the XO-form table. -/
def decodeExtended (w : Word) : Decoded :=
  match (fieldXo10 w).toNat with
  | 0 => unlessReserved (fieldBit9 w || fieldL w || fieldRc w)
      (.instr (.cmp (fieldCrfD w) (fieldL w) (fieldA w) (fieldB w)))
  | 4 => unlessReserved (fieldRc w) (.instr (.tw (fieldTo w) (fieldA w) (fieldB w)))
  | 24 => selectRc w (.slw (fieldA w) (fieldD w) (fieldB w)) (.slwRc (fieldA w) (fieldD w) (fieldB w))
  | 26 => unlessReserved (fieldB w != 0) (selectRc w (.cntlzw (fieldA w) (fieldD w)) (.cntlzwRc (fieldA w) (fieldD w)))
  | 28 => selectRc w (.and (fieldA w) (fieldD w) (fieldB w)) (.andRc (fieldA w) (fieldD w) (fieldB w))
  | 32 => unlessReserved (fieldBit9 w || fieldL w || fieldRc w)
      (.instr (.cmpl (fieldCrfD w) (fieldL w) (fieldA w) (fieldB w)))
  | 60 => selectRc w (.andc (fieldA w) (fieldD w) (fieldB w)) (.andcRc (fieldA w) (fieldD w) (fieldB w))
  | 124 => selectRc w (.nor (fieldA w) (fieldD w) (fieldB w)) (.norRc (fieldA w) (fieldD w) (fieldB w))
  | 284 => selectRc w (.eqv (fieldA w) (fieldD w) (fieldB w)) (.eqvRc (fieldA w) (fieldD w) (fieldB w))
  | 316 => selectRc w (.xor (fieldA w) (fieldD w) (fieldB w)) (.xorRc (fieldA w) (fieldD w) (fieldB w))
  | 412 => selectRc w (.orc (fieldA w) (fieldD w) (fieldB w)) (.orcRc (fieldA w) (fieldD w) (fieldB w))
  | 444 => selectRc w (.or (fieldA w) (fieldD w) (fieldB w)) (.orRc (fieldA w) (fieldD w) (fieldB w))
  | 476 => selectRc w (.nand (fieldA w) (fieldD w) (fieldB w)) (.nandRc (fieldA w) (fieldD w) (fieldB w))
  | 536 => selectRc w (.srw (fieldA w) (fieldD w) (fieldB w)) (.srwRc (fieldA w) (fieldD w) (fieldB w))
  | 792 => selectRc w (.sraw (fieldA w) (fieldD w) (fieldB w)) (.srawRc (fieldA w) (fieldD w) (fieldB w))
  | 824 => selectRc w (.srawi (fieldA w) (fieldD w) (fieldB w)) (.srawiRc (fieldA w) (fieldD w) (fieldB w))
  | 922 => unlessReserved (fieldB w != 0) (selectRc w (.extsh (fieldA w) (fieldD w)) (.extshRc (fieldA w) (fieldD w)))
  | 954 => unlessReserved (fieldB w != 0) (selectRc w (.extsb (fieldA w) (fieldD w)) (.extsbRc (fieldA w) (fieldD w)))
  | _ => decodeXoForm w

/-- The decode procedure of R55, total: every 32-bit word is an instruction, an invalid form, or refused. -/
def decodeWord (w : Word) : Decoded :=
  match (fieldOpcd w).toNat with
  | 3 => .instr (.twi (fieldTo w) (fieldA w) (fieldImm w))
  | 7 => .instr (.mulli (fieldD w) (fieldA w) (fieldImm w))
  | 8 => .instr (.subfic (fieldD w) (fieldA w) (fieldImm w))
  | 10 => unlessReserved (fieldBit9 w || fieldL w)
      (.instr (.cmpli (fieldCrfD w) (fieldL w) (fieldA w) (fieldImm w)))
  | 11 => unlessReserved (fieldBit9 w || fieldL w)
      (.instr (.cmpi (fieldCrfD w) (fieldL w) (fieldA w) (fieldImm w)))
  | 12 => .instr (.addic (fieldD w) (fieldA w) (fieldImm w))
  | 13 => .instr (.addicRc (fieldD w) (fieldA w) (fieldImm w))
  | 14 => .instr (.addi (fieldD w) (fieldA w) (fieldImm w))
  | 15 => .instr (.addis (fieldD w) (fieldA w) (fieldImm w))
  | 17 => if w.getLsbD 1 then unlessReserved (w != 0x44000002) (.instr .sc) else .refused
  | 20 => selectRc w
      (.rlwimi (fieldA w) (fieldD w) (fieldB w) (fieldMb w) (fieldMe w))
      (.rlwimiRc (fieldA w) (fieldD w) (fieldB w) (fieldMb w) (fieldMe w))
  | 21 => selectRc w
      (.rlwinm (fieldA w) (fieldD w) (fieldB w) (fieldMb w) (fieldMe w))
      (.rlwinmRc (fieldA w) (fieldD w) (fieldB w) (fieldMb w) (fieldMe w))
  | 23 => selectRc w
      (.rlwnm (fieldA w) (fieldD w) (fieldB w) (fieldMb w) (fieldMe w))
      (.rlwnmRc (fieldA w) (fieldD w) (fieldB w) (fieldMb w) (fieldMe w))
  | 24 => .instr (.ori (fieldA w) (fieldD w) (fieldImm w))
  | 25 => .instr (.oris (fieldA w) (fieldD w) (fieldImm w))
  | 26 => .instr (.xori (fieldA w) (fieldD w) (fieldImm w))
  | 27 => .instr (.xoris (fieldA w) (fieldD w) (fieldImm w))
  | 28 => .instr (.andiRc (fieldA w) (fieldD w) (fieldImm w))
  | 29 => .instr (.andisRc (fieldA w) (fieldD w) (fieldImm w))
  | 31 => decodeExtended w
  | _ => .refused

/-- The word formed from the four bytes at ascending addresses: big-endian, the byte at the lowest address holding bits
0 to 7 (R31, R32, D1). -/
def wordOfBytes (b0 b1 b2 b3 : Byte) : Word := b0 ++ b1 ++ b2 ++ b3

/-- The four bytes of a word as they lie in memory at ascending addresses (R32, D1). -/
def bytesOfWord (w : Word) : List Byte :=
  [w.extractLsb' 24 8, w.extractLsb' 16 8, w.extractLsb' 8 8, w.extractLsb' 0 8]

/-- Decoding of the bytes of an instruction, of any number: the first four form the word (R31, R45); fewer than four
form none, and are refused. -/
def decodeBytes : List Byte → Decoded
  | b0 :: b1 :: b2 :: b3 :: _ => decodeWord (wordOfBytes b0 b1 b2 b3)
  | _ => .refused

/-- The instruction word whose bits, numbered as spec/opcode_table.json numbers them (bit 0 the least significant), are
the low `nbits` bits of `w`, every bit above them 0. An instruction is one word of 32 bits (R45). -/
def tableWord (nbits w : Nat) : Word := BitVec.ofNat 32 (w % 2 ^ nbits)

/-- The instruction the decoder reads from an instruction whose bits are `w`, laid out in memory order, or none where
the decoder gives no instruction (log entry 15). -/
def decodeTableWord (nbits w : Nat) : Option Instr :=
  match decodeBytes (bytesOfWord (tableWord nbits w)) with
  | .instr i => some i
  | .invalidForm => none
  | .refused => none

/-! ## Encoding (R45 to R57) -/

/-- D-form: OPCD, rD or rS, rA, 16-bit immediate (R47). -/
def dForm (opcd : BitVec 6) (d a : Reg) (imm : BitVec 16) : Word :=
  opcd ++ BitVec.ofFin (w := 5) d ++ BitVec.ofFin (w := 5) a ++ imm

/-- D-form compare: OPCD, crfD, reserved bit 9, L, rA, 16-bit immediate (R48). -/
def dCompareForm (opcd : BitVec 6) (crfD : CrIndex) (l : Bool) (a : Reg) (imm : BitVec 16) : Word :=
  opcd ++ BitVec.ofFin (w := 3) crfD ++ 0#1 ++ BitVec.ofBool l ++ BitVec.ofFin (w := 5) a ++ imm

/-- D-form trap: OPCD, TO, rA, SIMM (R48). -/
def dTrapForm (opcd : BitVec 6) (trapOn : BitVec 5) (a : Reg) (imm : BitVec 16) : Word :=
  opcd ++ trapOn ++ BitVec.ofFin (w := 5) a ++ imm

/-- XO-form, OPCD = 31: rD, rA, rB, OE, the 9-bit XO, Rc (R49). A reserved rB field or bit 21 is 0. -/
def xoForm (d a b : Reg) (oe : Bool) (xo : BitVec 9) (rc : Bool) : Word :=
  31#6 ++ BitVec.ofFin (w := 5) d ++ BitVec.ofFin (w := 5) a ++ BitVec.ofFin (w := 5) b ++ BitVec.ofBool oe ++ xo ++
    BitVec.ofBool rc

/-- X-form, OPCD = 31: rS, rA, rB or SH, the 10-bit XO, Rc (R50). A reserved rB field is 0. -/
def xForm (s a b : Fin 32) (xo : BitVec 10) (rc : Bool) : Word :=
  31#6 ++ BitVec.ofFin (w := 5) s ++ BitVec.ofFin (w := 5) a ++ BitVec.ofFin (w := 5) b ++ xo ++ BitVec.ofBool rc

/-- X-form compare, OPCD = 31: crfD, reserved bit 9, L, rA, rB, the 10-bit XO, bit 31 = 0 (R50). -/
def xCompareForm (crfD : CrIndex) (l : Bool) (a b : Reg) (xo : BitVec 10) : Word :=
  31#6 ++ BitVec.ofFin (w := 3) crfD ++ 0#1 ++ BitVec.ofBool l ++ BitVec.ofFin (w := 5) a ++ BitVec.ofFin (w := 5) b ++
    xo ++ 0#1

/-- X-form trap, OPCD = 31: TO, rA, rB, the 10-bit XO, bit 31 = 0 (R50). -/
def xTrapForm (trapOn : BitVec 5) (a b : Reg) (xo : BitVec 10) : Word :=
  31#6 ++ trapOn ++ BitVec.ofFin (w := 5) a ++ BitVec.ofFin (w := 5) b ++ xo ++ 0#1

/-- M-form: OPCD, rS, rA, SH or rB, MB, ME, Rc (R51). -/
def mForm (opcd : BitVec 6) (s a b mb me : Fin 32) (rc : Bool) : Word :=
  opcd ++ BitVec.ofFin (w := 5) s ++ BitVec.ofFin (w := 5) a ++ BitVec.ofFin (w := 5) b ++ BitVec.ofFin (w := 5) mb ++
    BitVec.ofFin (w := 5) me ++ BitVec.ofBool rc

/-- The word of an instruction, from the opcode numbers of R56 and R57. A compare with L = 1 has a word too, which the
decoder calls an invalid form. -/
def encode : Instr → Word
  | .addi rD rA simm => dForm 14 rD rA simm
  | .addis rD rA simm => dForm 15 rD rA simm
  | .add rD rA rB => xoForm rD rA rB false 266 false
  | .addRc rD rA rB => xoForm rD rA rB false 266 true
  | .addo rD rA rB => xoForm rD rA rB true 266 false
  | .addoRc rD rA rB => xoForm rD rA rB true 266 true
  | .subf rD rA rB => xoForm rD rA rB false 40 false
  | .subfRc rD rA rB => xoForm rD rA rB false 40 true
  | .subfo rD rA rB => xoForm rD rA rB true 40 false
  | .subfoRc rD rA rB => xoForm rD rA rB true 40 true
  | .addic rD rA simm => dForm 12 rD rA simm
  | .addicRc rD rA simm => dForm 13 rD rA simm
  | .subfic rD rA simm => dForm 8 rD rA simm
  | .addc rD rA rB => xoForm rD rA rB false 10 false
  | .addcRc rD rA rB => xoForm rD rA rB false 10 true
  | .addco rD rA rB => xoForm rD rA rB true 10 false
  | .addcoRc rD rA rB => xoForm rD rA rB true 10 true
  | .subfc rD rA rB => xoForm rD rA rB false 8 false
  | .subfcRc rD rA rB => xoForm rD rA rB false 8 true
  | .subfco rD rA rB => xoForm rD rA rB true 8 false
  | .subfcoRc rD rA rB => xoForm rD rA rB true 8 true
  | .adde rD rA rB => xoForm rD rA rB false 138 false
  | .addeRc rD rA rB => xoForm rD rA rB false 138 true
  | .addeo rD rA rB => xoForm rD rA rB true 138 false
  | .addeoRc rD rA rB => xoForm rD rA rB true 138 true
  | .subfe rD rA rB => xoForm rD rA rB false 136 false
  | .subfeRc rD rA rB => xoForm rD rA rB false 136 true
  | .subfeo rD rA rB => xoForm rD rA rB true 136 false
  | .subfeoRc rD rA rB => xoForm rD rA rB true 136 true
  | .addme rD rA => xoForm rD rA 0 false 234 false
  | .addmeRc rD rA => xoForm rD rA 0 false 234 true
  | .addmeo rD rA => xoForm rD rA 0 true 234 false
  | .addmeoRc rD rA => xoForm rD rA 0 true 234 true
  | .subfme rD rA => xoForm rD rA 0 false 232 false
  | .subfmeRc rD rA => xoForm rD rA 0 false 232 true
  | .subfmeo rD rA => xoForm rD rA 0 true 232 false
  | .subfmeoRc rD rA => xoForm rD rA 0 true 232 true
  | .addze rD rA => xoForm rD rA 0 false 202 false
  | .addzeRc rD rA => xoForm rD rA 0 false 202 true
  | .addzeo rD rA => xoForm rD rA 0 true 202 false
  | .addzeoRc rD rA => xoForm rD rA 0 true 202 true
  | .subfze rD rA => xoForm rD rA 0 false 200 false
  | .subfzeRc rD rA => xoForm rD rA 0 false 200 true
  | .subfzeo rD rA => xoForm rD rA 0 true 200 false
  | .subfzeoRc rD rA => xoForm rD rA 0 true 200 true
  | .neg rD rA => xoForm rD rA 0 false 104 false
  | .negRc rD rA => xoForm rD rA 0 false 104 true
  | .nego rD rA => xoForm rD rA 0 true 104 false
  | .negoRc rD rA => xoForm rD rA 0 true 104 true
  | .mulli rD rA simm => dForm 7 rD rA simm
  | .mullw rD rA rB => xoForm rD rA rB false 235 false
  | .mullwRc rD rA rB => xoForm rD rA rB false 235 true
  | .mullwo rD rA rB => xoForm rD rA rB true 235 false
  | .mullwoRc rD rA rB => xoForm rD rA rB true 235 true
  | .mulhw rD rA rB => xoForm rD rA rB false 75 false
  | .mulhwRc rD rA rB => xoForm rD rA rB false 75 true
  | .mulhwu rD rA rB => xoForm rD rA rB false 11 false
  | .mulhwuRc rD rA rB => xoForm rD rA rB false 11 true
  | .divw rD rA rB => xoForm rD rA rB false 491 false
  | .divwRc rD rA rB => xoForm rD rA rB false 491 true
  | .divwo rD rA rB => xoForm rD rA rB true 491 false
  | .divwoRc rD rA rB => xoForm rD rA rB true 491 true
  | .divwu rD rA rB => xoForm rD rA rB false 459 false
  | .divwuRc rD rA rB => xoForm rD rA rB false 459 true
  | .divwuo rD rA rB => xoForm rD rA rB true 459 false
  | .divwuoRc rD rA rB => xoForm rD rA rB true 459 true
  | .cmpi crfD l rA simm => dCompareForm 11 crfD l rA simm
  | .cmp crfD l rA rB => xCompareForm crfD l rA rB 0
  | .cmpli crfD l rA uimm => dCompareForm 10 crfD l rA uimm
  | .cmpl crfD l rA rB => xCompareForm crfD l rA rB 32
  | .andiRc rA rS uimm => dForm 28 rS rA uimm
  | .andisRc rA rS uimm => dForm 29 rS rA uimm
  | .ori rA rS uimm => dForm 24 rS rA uimm
  | .oris rA rS uimm => dForm 25 rS rA uimm
  | .xori rA rS uimm => dForm 26 rS rA uimm
  | .xoris rA rS uimm => dForm 27 rS rA uimm
  | .and rA rS rB => xForm rS rA rB 28 false
  | .andRc rA rS rB => xForm rS rA rB 28 true
  | .or rA rS rB => xForm rS rA rB 444 false
  | .orRc rA rS rB => xForm rS rA rB 444 true
  | .xor rA rS rB => xForm rS rA rB 316 false
  | .xorRc rA rS rB => xForm rS rA rB 316 true
  | .nand rA rS rB => xForm rS rA rB 476 false
  | .nandRc rA rS rB => xForm rS rA rB 476 true
  | .nor rA rS rB => xForm rS rA rB 124 false
  | .norRc rA rS rB => xForm rS rA rB 124 true
  | .eqv rA rS rB => xForm rS rA rB 284 false
  | .eqvRc rA rS rB => xForm rS rA rB 284 true
  | .andc rA rS rB => xForm rS rA rB 60 false
  | .andcRc rA rS rB => xForm rS rA rB 60 true
  | .orc rA rS rB => xForm rS rA rB 412 false
  | .orcRc rA rS rB => xForm rS rA rB 412 true
  | .extsb rA rS => xForm rS rA 0 954 false
  | .extsbRc rA rS => xForm rS rA 0 954 true
  | .extsh rA rS => xForm rS rA 0 922 false
  | .extshRc rA rS => xForm rS rA 0 922 true
  | .cntlzw rA rS => xForm rS rA 0 26 false
  | .cntlzwRc rA rS => xForm rS rA 0 26 true
  | .rlwinm rA rS sh mb me => mForm 21 rS rA sh mb me false
  | .rlwinmRc rA rS sh mb me => mForm 21 rS rA sh mb me true
  | .rlwnm rA rS rB mb me => mForm 23 rS rA rB mb me false
  | .rlwnmRc rA rS rB mb me => mForm 23 rS rA rB mb me true
  | .rlwimi rA rS sh mb me => mForm 20 rS rA sh mb me false
  | .rlwimiRc rA rS sh mb me => mForm 20 rS rA sh mb me true
  | .slw rA rS rB => xForm rS rA rB 24 false
  | .slwRc rA rS rB => xForm rS rA rB 24 true
  | .srw rA rS rB => xForm rS rA rB 536 false
  | .srwRc rA rS rB => xForm rS rA rB 536 true
  | .srawi rA rS sh => xForm rS rA sh 824 false
  | .srawiRc rA rS sh => xForm rS rA sh 824 true
  | .sraw rA rS rB => xForm rS rA rB 792 false
  | .srawRc rA rS rB => xForm rS rA rB 792 true
  | .sc => 0x44000002
  | .twi trapOn rA simm => dTrapForm 3 trapOn rA simm
  | .tw trapOn rA rB => xTrapForm trapOn rA rB 4

end Sys2Proof
end

