-- ==== Sys2Proof/Machine/Compare.lean ====
section
/-! DEFINITION. Integer compare (spec/42_integer_compare.md). -/

namespace Sys2Proof.Machine

/-- LT, GT, EQ of a signed comparison (R115). -/
def signedOrder (a b : Word) : BitVec 3 := orderBits (a.slt b) (b.slt a)

/-- LT, GT, EQ of an unsigned comparison (R115). -/
def unsignedOrder (a b : Word) : BitVec 3 := orderBits (a.ult b) (b.ult a)

/-- The result of a comparison into CR field crfD, with a copy of XER[SO] (R115). With L = 1 the form is invalid (R61,
R115): the instruction's own word is reported and nothing is written. Log entry 11. -/
def compareInto (crfD : CrIndex) (l : Bool) (word : Word) (order : BitVec 3) (s : State) :
    Host.Outcome State Fault Refusal :=
  if l then .fault (.invalidForm s.pc word) else .next (s.setCrOrder crfD order).advancePc

/-- `cmpi` (R116): (rA) is compared with SIMM as signed integers, into CR field crfD. -/
def execCmpi (crfD : CrIndex) (l : Bool) (rA : Reg) (simm : BitVec 16) (s : State) : Host.Outcome State Fault Refusal :=
  compareInto crfD l (encode (.cmpi crfD l rA simm)) (signedOrder (s.readGpr rA) (signExtended simm)) s

/-- `cmp` (R117): (rA) is compared with (rB) as signed integers, into CR field crfD. -/
def execCmp (crfD : CrIndex) (l : Bool) (rA rB : Reg) (s : State) : Host.Outcome State Fault Refusal :=
  compareInto crfD l (encode (.cmp crfD l rA rB)) (signedOrder (s.readGpr rA) (s.readGpr rB)) s

/-- `cmpli` (R118): (rA) is compared with 0x0000 || UIMM as unsigned integers, into CR field crfD. -/
def execCmpli (crfD : CrIndex) (l : Bool) (rA : Reg) (uimm : BitVec 16) (s : State) : Host.Outcome State Fault Refusal :=
  compareInto crfD l (encode (.cmpli crfD l rA uimm)) (unsignedOrder (s.readGpr rA) (zeroExtended uimm)) s

/-- `cmpl` (R119): (rA) is compared with (rB) as unsigned integers, into CR field crfD. -/
def execCmpl (crfD : CrIndex) (l : Bool) (rA rB : Reg) (s : State) : Host.Outcome State Fault Refusal :=
  compareInto crfD l (encode (.cmpl crfD l rA rB)) (unsignedOrder (s.readGpr rA) (s.readGpr rB)) s

end Sys2Proof.Machine
end

