-- ==== Sys2Proof/Machine/Logical.lean ====
section
/-! DEFINITION. Integer logical (spec/43_integer_logical.md). -/

namespace Sys2Proof.Machine

/-- A logical, rotate or shift result into rA, the XER unchanged, CR0 recorded with Rc = 1 (R125, R152, R160). -/
def State.resultInto (s : State) (rc : Bool) (rA : Reg) (r : Word) : State :=
  s.finish rA r none none (whenEnabled rc (resultOrder r))

/-- `andi.` (R126): (rS) ANDed with 0x0000 || UIMM is placed into rA; CR0 recorded. -/
def execAndiRc (rA rS : Reg) (uimm : BitVec 16) (s : State) : Host.Outcome State Fault Refusal :=
  .next (s.resultInto (rc := true) rA (s.readGpr rS &&& zeroExtended uimm))

/-- `andis.` (R127): (rS) ANDed with UIMM || 0x0000 is placed into rA; CR0 recorded. -/
def execAndisRc (rA rS : Reg) (uimm : BitVec 16) (s : State) : Host.Outcome State Fault Refusal :=
  .next (s.resultInto (rc := true) rA (s.readGpr rS &&& shiftedImmediate uimm))

/-- `ori` (R128): (rS) ORed with 0x0000 || UIMM is placed into rA. -/
def execOri (rA rS : Reg) (uimm : BitVec 16) (s : State) : Host.Outcome State Fault Refusal :=
  .next (s.resultInto (rc := false) rA (s.readGpr rS ||| zeroExtended uimm))

/-- `oris` (R129): (rS) ORed with UIMM || 0x0000 is placed into rA. -/
def execOris (rA rS : Reg) (uimm : BitVec 16) (s : State) : Host.Outcome State Fault Refusal :=
  .next (s.resultInto (rc := false) rA (s.readGpr rS ||| shiftedImmediate uimm))

/-- `xori` (R130): (rS) XORed with 0x0000 || UIMM is placed into rA. -/
def execXori (rA rS : Reg) (uimm : BitVec 16) (s : State) : Host.Outcome State Fault Refusal :=
  .next (s.resultInto (rc := false) rA (s.readGpr rS ^^^ zeroExtended uimm))

/-- `xoris` (R131): (rS) XORed with UIMM || 0x0000 is placed into rA. -/
def execXoris (rA rS : Reg) (uimm : BitVec 16) (s : State) : Host.Outcome State Fault Refusal :=
  .next (s.resultInto (rc := false) rA (s.readGpr rS ^^^ shiftedImmediate uimm))

/-- `and` (R132): (rS) AND (rB) is placed into rA. -/
def execAnd (rA rS rB : Reg) (s : State) : Host.Outcome State Fault Refusal :=
  .next (s.resultInto (rc := false) rA (s.readGpr rS &&& s.readGpr rB))

/-- `and.` (R132): (rS) AND (rB) is placed into rA; CR0 recorded. -/
def execAndRc (rA rS rB : Reg) (s : State) : Host.Outcome State Fault Refusal :=
  .next (s.resultInto (rc := true) rA (s.readGpr rS &&& s.readGpr rB))

/-- `or` (R133): (rS) OR (rB) is placed into rA. -/
def execOr (rA rS rB : Reg) (s : State) : Host.Outcome State Fault Refusal :=
  .next (s.resultInto (rc := false) rA (s.readGpr rS ||| s.readGpr rB))

/-- `or.` (R133): (rS) OR (rB) is placed into rA; CR0 recorded. -/
def execOrRc (rA rS rB : Reg) (s : State) : Host.Outcome State Fault Refusal :=
  .next (s.resultInto (rc := true) rA (s.readGpr rS ||| s.readGpr rB))

/-- `xor` (R134): (rS) XOR (rB) is placed into rA. -/
def execXor (rA rS rB : Reg) (s : State) : Host.Outcome State Fault Refusal :=
  .next (s.resultInto (rc := false) rA (s.readGpr rS ^^^ s.readGpr rB))

/-- `xor.` (R134): (rS) XOR (rB) is placed into rA; CR0 recorded. -/
def execXorRc (rA rS rB : Reg) (s : State) : Host.Outcome State Fault Refusal :=
  .next (s.resultInto (rc := true) rA (s.readGpr rS ^^^ s.readGpr rB))

/-- `nand` (R135): ¬((rS) AND (rB)) is placed into rA. -/
def execNand (rA rS rB : Reg) (s : State) : Host.Outcome State Fault Refusal :=
  .next (s.resultInto (rc := false) rA (~~~(s.readGpr rS &&& s.readGpr rB)))

/-- `nand.` (R135): ¬((rS) AND (rB)) is placed into rA; CR0 recorded. -/
def execNandRc (rA rS rB : Reg) (s : State) : Host.Outcome State Fault Refusal :=
  .next (s.resultInto (rc := true) rA (~~~(s.readGpr rS &&& s.readGpr rB)))

/-- `nor` (R136): ¬((rS) OR (rB)) is placed into rA. -/
def execNor (rA rS rB : Reg) (s : State) : Host.Outcome State Fault Refusal :=
  .next (s.resultInto (rc := false) rA (~~~(s.readGpr rS ||| s.readGpr rB)))

/-- `nor.` (R136): ¬((rS) OR (rB)) is placed into rA; CR0 recorded. -/
def execNorRc (rA rS rB : Reg) (s : State) : Host.Outcome State Fault Refusal :=
  .next (s.resultInto (rc := true) rA (~~~(s.readGpr rS ||| s.readGpr rB)))

/-- `eqv` (R137): ¬((rS) XOR (rB)) is placed into rA. -/
def execEqv (rA rS rB : Reg) (s : State) : Host.Outcome State Fault Refusal :=
  .next (s.resultInto (rc := false) rA (~~~(s.readGpr rS ^^^ s.readGpr rB)))

/-- `eqv.` (R137): ¬((rS) XOR (rB)) is placed into rA; CR0 recorded. -/
def execEqvRc (rA rS rB : Reg) (s : State) : Host.Outcome State Fault Refusal :=
  .next (s.resultInto (rc := true) rA (~~~(s.readGpr rS ^^^ s.readGpr rB)))

/-- `andc` (R138): (rS) AND ¬(rB) is placed into rA. -/
def execAndc (rA rS rB : Reg) (s : State) : Host.Outcome State Fault Refusal :=
  .next (s.resultInto (rc := false) rA (s.readGpr rS &&& ~~~s.readGpr rB))

/-- `andc.` (R138): (rS) AND ¬(rB) is placed into rA; CR0 recorded. -/
def execAndcRc (rA rS rB : Reg) (s : State) : Host.Outcome State Fault Refusal :=
  .next (s.resultInto (rc := true) rA (s.readGpr rS &&& ~~~s.readGpr rB))

/-- `orc` (R139): (rS) OR ¬(rB) is placed into rA. -/
def execOrc (rA rS rB : Reg) (s : State) : Host.Outcome State Fault Refusal :=
  .next (s.resultInto (rc := false) rA (s.readGpr rS ||| ~~~s.readGpr rB))

/-- `orc.` (R139): (rS) OR ¬(rB) is placed into rA; CR0 recorded. -/
def execOrcRc (rA rS rB : Reg) (s : State) : Host.Outcome State Fault Refusal :=
  .next (s.resultInto (rc := true) rA (s.readGpr rS ||| ~~~s.readGpr rB))

/-- `extsb` (R140): the low-order byte of (rS), sign-extended, is placed into rA. -/
def execExtsb (rA rS : Reg) (s : State) : Host.Outcome State Fault Refusal :=
  .next (s.resultInto (rc := false) rA (((s.readGpr rS).extractLsb' 0 8).signExtend 32))

/-- `extsb.` (R140): the low-order byte of (rS), sign-extended, is placed into rA; CR0 recorded. -/
def execExtsbRc (rA rS : Reg) (s : State) : Host.Outcome State Fault Refusal :=
  .next (s.resultInto (rc := true) rA (((s.readGpr rS).extractLsb' 0 8).signExtend 32))

/-- `extsh` (R141): the low-order 16 bits of (rS), sign-extended, is placed into rA. -/
def execExtsh (rA rS : Reg) (s : State) : Host.Outcome State Fault Refusal :=
  .next (s.resultInto (rc := false) rA (((s.readGpr rS).extractLsb' 0 16).signExtend 32))

/-- `extsh.` (R141): the low-order 16 bits of (rS), sign-extended, is placed into rA; CR0 recorded. -/
def execExtshRc (rA rS : Reg) (s : State) : Host.Outcome State Fault Refusal :=
  .next (s.resultInto (rc := true) rA (((s.readGpr rS).extractLsb' 0 16).signExtend 32))

/-- `cntlzw` (R142): the number of leading zero bits of (rS) is placed into rA. -/
def execCntlzw (rA rS : Reg) (s : State) : Host.Outcome State Fault Refusal :=
  .next (s.resultInto (rc := false) rA (BitVec.ofNat 32 (leadingZeros (s.readGpr rS))))

/-- `cntlzw.` (R142): the number of leading zero bits of (rS) is placed into rA; CR0 recorded. -/
def execCntlzwRc (rA rS : Reg) (s : State) : Host.Outcome State Fault Refusal :=
  .next (s.resultInto (rc := true) rA (BitVec.ofNat 32 (leadingZeros (s.readGpr rS))))

end Sys2Proof.Machine
end

