-- ==== Sys2Proof/Machine/MulDiv.lean ====
section
/-! DEFINITION. Integer multiply and divide (spec/41_integer_multiply_divide.md). -/

namespace Sys2Proof.Machine

/-- The low-order 32 bits of the exact signed product into rD (R100, R101); with OE = 1 the overflow is that the product
is not representable in 32 bits (R101). -/
def State.productLowInto (s : State) (oe rc : Bool) (rD : Reg) (a b : Word) : State :=
  let p := a.toInt * b.toInt
  let r := BitVec.ofInt 32 p
  s.finish rD r none (whenEnabled oe (outsideInt32 p)) (whenEnabled rc (resultOrder r))

/-- Bits 0:31 of an exact 64-bit product into rD: `floor(p / 2^32)` (R102, R103). -/
def State.productHighInto (s : State) (rc : Bool) (rD : Reg) (p : Int) : State :=
  let r := BitVec.ofInt 32 (p / 2 ^ 32)
  s.finish rD r none none (whenEnabled rc (resultOrder r))

/-- The operands for which `divw` has no defined result (R104, R106): a zero divisor, or 0x80000000 by -1. -/
def signedUndefined (a b : Word) : Bool := b == 0 || (a == 0x80000000 && b == 0xFFFFFFFF)

/-- The operands for which `divwu` has no defined result (R105, R106): a zero divisor. -/
def unsignedUndefined (b : Word) : Bool := b == 0

/-- The exact signed quotient rounded toward zero (R104). -/
def signedQuotient (a b : Word) : Word := BitVec.ofInt 32 (a.toInt.tdiv b.toInt)

/-- The unsigned quotient (R105). -/
def unsignedQuotient (a b : Word) : Word := BitVec.ofNat 32 (a.toNat / b.toNat)

/-- A quotient into rD (R104, R105). In the undefined cases (R106) the machine goes on: rD and, with Rc = 1, LT, GT and EQ
of CR0 are free draws, OV and SO are set with OE = 1, and the draw is counted. Log entries 7 and 16. -/
def State.quotientInto (s : State) (oe rc : Bool) (rD : Reg) (isUndefined : Bool) (q : Word) : State :=
  if isUndefined then
    (s.finish rD (Config.divUndefResult s.draws) none (whenEnabled oe true)
      (whenEnabled rc (Config.divUndefOrder s.draws))).countDraw
  else s.finish rD q none (whenEnabled oe false) (whenEnabled rc (resultOrder q))

/-- `mulli` (R100): the low-order 32 bits of the product (rA) * SIMM are placed into rD. -/
def execMulli (rD rA : Reg) (simm : BitVec 16) (s : State) : Host.Outcome State Fault Refusal :=
  .next (s.productLowInto (oe := false) (rc := false) rD (s.readGpr rA) (signExtended simm))

/-- `mullw` (R101): the low-order 32 bits of the product (rA) * (rB) are placed into rD. -/
def execMullw (rD rA rB : Reg) (s : State) : Host.Outcome State Fault Refusal :=
  .next (s.productLowInto (oe := false) (rc := false) rD (s.readGpr rA) (s.readGpr rB))

/-- `mullw.` (R101): the low-order 32 bits of the product (rA) * (rB) are placed into rD; CR0 recorded. -/
def execMullwRc (rD rA rB : Reg) (s : State) : Host.Outcome State Fault Refusal :=
  .next (s.productLowInto (oe := false) (rc := true) rD (s.readGpr rA) (s.readGpr rB))

/-- `mullwo` (R101): the low-order 32 bits of the product (rA) * (rB) are placed into rD; OV and SO set. -/
def execMullwo (rD rA rB : Reg) (s : State) : Host.Outcome State Fault Refusal :=
  .next (s.productLowInto (oe := true) (rc := false) rD (s.readGpr rA) (s.readGpr rB))

/-- `mullwo.` (R101): the low-order 32 bits of the product (rA) * (rB) are placed into rD; OV, SO and CR0 set. -/
def execMullwoRc (rD rA rB : Reg) (s : State) : Host.Outcome State Fault Refusal :=
  .next (s.productLowInto (oe := true) (rc := true) rD (s.readGpr rA) (s.readGpr rB))

/-- `mulhw` (R102): the high-order 32 bits of the signed 64-bit product are placed into rD. -/
def execMulhw (rD rA rB : Reg) (s : State) : Host.Outcome State Fault Refusal :=
  .next (s.productHighInto (rc := false) rD ((s.readGpr rA).toInt * (s.readGpr rB).toInt))

/-- `mulhw.` (R102): the high-order 32 bits of the signed 64-bit product are placed into rD; CR0 recorded. -/
def execMulhwRc (rD rA rB : Reg) (s : State) : Host.Outcome State Fault Refusal :=
  .next (s.productHighInto (rc := true) rD ((s.readGpr rA).toInt * (s.readGpr rB).toInt))

/-- `mulhwu` (R103): the high-order 32 bits of the unsigned 64-bit product are placed into rD. -/
def execMulhwu (rD rA rB : Reg) (s : State) : Host.Outcome State Fault Refusal :=
  .next (s.productHighInto (rc := false) rD ((s.readGpr rA).toNat * (s.readGpr rB).toNat : Nat))

/-- `mulhwu.` (R103): the high-order 32 bits of the unsigned 64-bit product are placed into rD; CR0 recorded. -/
def execMulhwuRc (rD rA rB : Reg) (s : State) : Host.Outcome State Fault Refusal :=
  .next (s.productHighInto (rc := true) rD ((s.readGpr rA).toNat * (s.readGpr rB).toNat : Nat))

/-- `divw` (R104): the signed quotient (rA) / (rB), rounded toward zero, is placed into rD. -/
def execDivw (rD rA rB : Reg) (s : State) : Host.Outcome State Fault Refusal :=
  .next (s.quotientInto (oe := false) (rc := false) rD (signedUndefined (s.readGpr rA) (s.readGpr rB))
    (signedQuotient (s.readGpr rA) (s.readGpr rB)))

/-- `divw.` (R104): the signed quotient (rA) / (rB), rounded toward zero, is placed into rD; CR0 recorded. -/
def execDivwRc (rD rA rB : Reg) (s : State) : Host.Outcome State Fault Refusal :=
  .next (s.quotientInto (oe := false) (rc := true) rD (signedUndefined (s.readGpr rA) (s.readGpr rB))
    (signedQuotient (s.readGpr rA) (s.readGpr rB)))

/-- `divwo` (R104): the signed quotient (rA) / (rB), rounded toward zero, is placed into rD; OV and SO set. -/
def execDivwo (rD rA rB : Reg) (s : State) : Host.Outcome State Fault Refusal :=
  .next (s.quotientInto (oe := true) (rc := false) rD (signedUndefined (s.readGpr rA) (s.readGpr rB))
    (signedQuotient (s.readGpr rA) (s.readGpr rB)))

/-- `divwo.` (R104): the signed quotient (rA) / (rB), rounded toward zero, is placed into rD; OV, SO and CR0 set. -/
def execDivwoRc (rD rA rB : Reg) (s : State) : Host.Outcome State Fault Refusal :=
  .next (s.quotientInto (oe := true) (rc := true) rD (signedUndefined (s.readGpr rA) (s.readGpr rB))
    (signedQuotient (s.readGpr rA) (s.readGpr rB)))

/-- `divwu` (R105): the unsigned quotient (rA) / (rB) is placed into rD. -/
def execDivwu (rD rA rB : Reg) (s : State) : Host.Outcome State Fault Refusal :=
  .next (s.quotientInto (oe := false) (rc := false) rD (unsignedUndefined (s.readGpr rB))
    (unsignedQuotient (s.readGpr rA) (s.readGpr rB)))

/-- `divwu.` (R105): the unsigned quotient (rA) / (rB) is placed into rD; CR0 recorded. -/
def execDivwuRc (rD rA rB : Reg) (s : State) : Host.Outcome State Fault Refusal :=
  .next (s.quotientInto (oe := false) (rc := true) rD (unsignedUndefined (s.readGpr rB))
    (unsignedQuotient (s.readGpr rA) (s.readGpr rB)))

/-- `divwuo` (R105): the unsigned quotient (rA) / (rB) is placed into rD; OV and SO set. -/
def execDivwuo (rD rA rB : Reg) (s : State) : Host.Outcome State Fault Refusal :=
  .next (s.quotientInto (oe := true) (rc := false) rD (unsignedUndefined (s.readGpr rB))
    (unsignedQuotient (s.readGpr rA) (s.readGpr rB)))

/-- `divwuo.` (R105): the unsigned quotient (rA) / (rB) is placed into rD; OV, SO and CR0 set. -/
def execDivwuoRc (rD rA rB : Reg) (s : State) : Host.Outcome State Fault Refusal :=
  .next (s.quotientInto (oe := true) (rc := true) rD (unsignedUndefined (s.readGpr rB))
    (unsignedQuotient (s.readGpr rA) (s.readGpr rB)))

end Sys2Proof.Machine
end

