-- ==== Sys2Proof/Machine/Rotate.lean ====
section
/-! DEFINITION. Integer rotate (spec/44_integer_rotate.md); the rotation and the mask generator are in Operands.lean. -/

namespace Sys2Proof.Machine


/-- `rlwinm` (R153): (rS) rotated left by SH and ANDed with the mask is placed into rA. -/
def execRlwinm (rA rS : Reg) (sh mb me : BitPos) (s : State) : Host.Outcome State Fault Refusal :=
  .next (s.resultInto (rc := false) rA (rotl32 (s.readGpr rS) sh.val &&& mask mb me))

/-- `rlwinm.` (R153): (rS) rotated left by SH and ANDed with the mask is placed into rA; CR0 recorded. -/
def execRlwinmRc (rA rS : Reg) (sh mb me : BitPos) (s : State) : Host.Outcome State Fault Refusal :=
  .next (s.resultInto (rc := true) rA (rotl32 (s.readGpr rS) sh.val &&& mask mb me))

/-- `rlwnm` (R154): (rS) rotated left by the low five bits of (rB) and ANDed with the mask is placed into rA. -/
def execRlwnm (rA rS rB : Reg) (mb me : BitPos) (s : State) : Host.Outcome State Fault Refusal :=
  .next (s.resultInto (rc := false) rA (rotl32 (s.readGpr rS) (rotateCount (s.readGpr rB)) &&& mask mb me))

/-- `rlwnm.` (R154): (rS) rotated left by the low five bits of (rB) and ANDed with the mask is placed into rA; CR0 recorded. -/
def execRlwnmRc (rA rS rB : Reg) (mb me : BitPos) (s : State) : Host.Outcome State Fault Refusal :=
  .next (s.resultInto (rc := true) rA (rotl32 (s.readGpr rS) (rotateCount (s.readGpr rB)) &&& mask mb me))

/-- `rlwimi` (R155): (rS) rotated left by SH is inserted into rA under the mask. -/
def execRlwimi (rA rS : Reg) (sh mb me : BitPos) (s : State) : Host.Outcome State Fault Refusal :=
  .next (s.resultInto (rc := false) rA
    ((rotl32 (s.readGpr rS) sh.val &&& mask mb me) ||| (s.readGpr rA &&& ~~~mask mb me)))

/-- `rlwimi.` (R155): (rS) rotated left by SH is inserted into rA under the mask; CR0 recorded. -/
def execRlwimiRc (rA rS : Reg) (sh mb me : BitPos) (s : State) : Host.Outcome State Fault Refusal :=
  .next (s.resultInto (rc := true) rA
    ((rotl32 (s.readGpr rS) sh.val &&& mask mb me) ||| (s.readGpr rA &&& ~~~mask mb me)))

end Sys2Proof.Machine
end

