-- ==== Sys2Proof/Machine/Shift.lean ====
section
/-! DEFINITION. Integer shift (spec/45_integer_shift.md). -/

namespace Sys2Proof.Machine

/-- A left shift by 0 to 63 places: a count of 32 or more shifts every bit out (R160, R161). -/
def shiftLeft (v : Word) (n : Nat) : Word := if n < 32 then v <<< n else 0

/-- A logical right shift by 0 to 63 places (R160, R162). -/
def shiftRight (v : Word) (n : Nat) : Word := if n < 32 then v >>> n else 0

/-- An algebraic right shift by 0 to 63 places: the sign fills from the left, and for 32 or more is the whole result
(R163, R164). -/
def shiftRightAlgebraic (v : Word) (n : Nat) : Word :=
  if n < 32 then v.sshiftRight n else if v.msb then 0xFFFFFFFF else 0

/-- An algebraic right shift into rA: CA on every execution, OV and SO never, CR0 with Rc = 1 (R160). -/
def State.algebraicInto (s : State) (rc : Bool) (rA : Reg) (v : Word) (n : Nat) : State :=
  let r := shiftRightAlgebraic v n
  s.finish rA r (some (algebraicCarry v n)) none (whenEnabled rc (resultOrder r))

/-- `slw` (R161): (rS) shifted left by the low six bits of (rB) is placed into rA. -/
def execSlw (rA rS rB : Reg) (s : State) : Host.Outcome State Fault Refusal :=
  .next (s.resultInto (rc := false) rA (shiftLeft (s.readGpr rS) (shiftCount (s.readGpr rB))))

/-- `slw.` (R161): (rS) shifted left by the low six bits of (rB) is placed into rA; CR0 recorded. -/
def execSlwRc (rA rS rB : Reg) (s : State) : Host.Outcome State Fault Refusal :=
  .next (s.resultInto (rc := true) rA (shiftLeft (s.readGpr rS) (shiftCount (s.readGpr rB))))

/-- `srw` (R162): (rS) shifted right by the low six bits of (rB) is placed into rA. -/
def execSrw (rA rS rB : Reg) (s : State) : Host.Outcome State Fault Refusal :=
  .next (s.resultInto (rc := false) rA (shiftRight (s.readGpr rS) (shiftCount (s.readGpr rB))))

/-- `srw.` (R162): (rS) shifted right by the low six bits of (rB) is placed into rA; CR0 recorded. -/
def execSrwRc (rA rS rB : Reg) (s : State) : Host.Outcome State Fault Refusal :=
  .next (s.resultInto (rc := true) rA (shiftRight (s.readGpr rS) (shiftCount (s.readGpr rB))))

/-- `srawi` (R163): (rS) shifted right algebraically by SH is placed into rA, with CA. -/
def execSrawi (rA rS : Reg) (sh : BitPos) (s : State) : Host.Outcome State Fault Refusal :=
  .next (s.algebraicInto (rc := false) rA (s.readGpr rS) sh.val)

/-- `srawi.` (R163): (rS) shifted right algebraically by SH is placed into rA, with CA; CR0 recorded. -/
def execSrawiRc (rA rS : Reg) (sh : BitPos) (s : State) : Host.Outcome State Fault Refusal :=
  .next (s.algebraicInto (rc := true) rA (s.readGpr rS) sh.val)

/-- `sraw` (R164): (rS) shifted right algebraically by the low six bits of (rB) is placed into rA, with CA. -/
def execSraw (rA rS rB : Reg) (s : State) : Host.Outcome State Fault Refusal :=
  .next (s.algebraicInto (rc := false) rA (s.readGpr rS) (shiftCount (s.readGpr rB)))

/-- `sraw.` (R164): (rS) shifted right algebraically by the low six bits of (rB) is placed into rA, with CA; CR0 recorded. -/
def execSrawRc (rA rS rB : Reg) (s : State) : Host.Outcome State Fault Refusal :=
  .next (s.algebraicInto (rc := true) rA (s.readGpr rS) (shiftCount (s.readGpr rB)))

end Sys2Proof.Machine
end

