-- ==== Sys2Proof/Machine/SystemTrap.lean ====
section
/-! DEFINITION. System call and trap (spec/46_system_call_and_trap.md). -/

namespace Sys2Proof.Machine

/-- The program exception of type trap when the condition holds, else only the pc advances (R172, R173, R184). -/
def State.trapWhen (s : State) (condition : Bool) : Host.Outcome State Fault Refusal :=
  if condition then s.takeException .programTrap else .next s.advancePc

/-- `sc` (R170): the system call exception is taken; no GPR, CR or XER bit changes. -/
def execSc (s : State) : Host.Outcome State Fault Refusal :=
  s.takeException .systemCall

/-- `twi` (R172): a program exception of type trap is taken when the condition holds between (rA) and SIMM. -/
def execTwi (trapOn : BitVec 5) (rA : Reg) (simm : BitVec 16) (s : State) : Host.Outcome State Fault Refusal :=
  s.trapWhen (trapCondition trapOn (s.readGpr rA) (signExtended simm))

/-- `tw` (R173): a program exception of type trap is taken when the condition holds between (rA) and (rB). -/
def execTw (trapOn : BitVec 5) (rA rB : Reg) (s : State) : Host.Outcome State Fault Refusal :=
  s.trapWhen (trapCondition trapOn (s.readGpr rA) (s.readGpr rB))

end Sys2Proof.Machine
end

