-- ==== Sys2Proof/Machine/Dispatch.lean ====
section
/-! DEFINITION. What each instruction does: one arm per constructor, one meaning per arm. -/

namespace Sys2Proof.Machine

/-- The effect of an instruction on a state (spec/10_state.md R21). -/
def exec (i : Instr) (s : State) : Host.Outcome State Fault Refusal :=
  match i with
  | .addi rD rA simm => Sys2Proof.Machine.execAddi rD rA simm s
  | .addis rD rA simm => Sys2Proof.Machine.execAddis rD rA simm s
  | .add rD rA rB => Sys2Proof.Machine.execAdd rD rA rB s
  | .addRc rD rA rB => Sys2Proof.Machine.execAddRc rD rA rB s
  | .addo rD rA rB => Sys2Proof.Machine.execAddo rD rA rB s
  | .addoRc rD rA rB => Sys2Proof.Machine.execAddoRc rD rA rB s
  | .subf rD rA rB => Sys2Proof.Machine.execSubf rD rA rB s
  | .subfRc rD rA rB => Sys2Proof.Machine.execSubfRc rD rA rB s
  | .subfo rD rA rB => Sys2Proof.Machine.execSubfo rD rA rB s
  | .subfoRc rD rA rB => Sys2Proof.Machine.execSubfoRc rD rA rB s
  | .addic rD rA simm => Sys2Proof.Machine.execAddic rD rA simm s
  | .addicRc rD rA simm => Sys2Proof.Machine.execAddicRc rD rA simm s
  | .subfic rD rA simm => Sys2Proof.Machine.execSubfic rD rA simm s
  | .addc rD rA rB => Sys2Proof.Machine.execAddc rD rA rB s
  | .addcRc rD rA rB => Sys2Proof.Machine.execAddcRc rD rA rB s
  | .addco rD rA rB => Sys2Proof.Machine.execAddco rD rA rB s
  | .addcoRc rD rA rB => Sys2Proof.Machine.execAddcoRc rD rA rB s
  | .subfc rD rA rB => Sys2Proof.Machine.execSubfc rD rA rB s
  | .subfcRc rD rA rB => Sys2Proof.Machine.execSubfcRc rD rA rB s
  | .subfco rD rA rB => Sys2Proof.Machine.execSubfco rD rA rB s
  | .subfcoRc rD rA rB => Sys2Proof.Machine.execSubfcoRc rD rA rB s
  | .adde rD rA rB => Sys2Proof.Machine.execAdde rD rA rB s
  | .addeRc rD rA rB => Sys2Proof.Machine.execAddeRc rD rA rB s
  | .addeo rD rA rB => Sys2Proof.Machine.execAddeo rD rA rB s
  | .addeoRc rD rA rB => Sys2Proof.Machine.execAddeoRc rD rA rB s
  | .subfe rD rA rB => Sys2Proof.Machine.execSubfe rD rA rB s
  | .subfeRc rD rA rB => Sys2Proof.Machine.execSubfeRc rD rA rB s
  | .subfeo rD rA rB => Sys2Proof.Machine.execSubfeo rD rA rB s
  | .subfeoRc rD rA rB => Sys2Proof.Machine.execSubfeoRc rD rA rB s
  | .addme rD rA => Sys2Proof.Machine.execAddme rD rA s
  | .addmeRc rD rA => Sys2Proof.Machine.execAddmeRc rD rA s
  | .addmeo rD rA => Sys2Proof.Machine.execAddmeo rD rA s
  | .addmeoRc rD rA => Sys2Proof.Machine.execAddmeoRc rD rA s
  | .subfme rD rA => Sys2Proof.Machine.execSubfme rD rA s
  | .subfmeRc rD rA => Sys2Proof.Machine.execSubfmeRc rD rA s
  | .subfmeo rD rA => Sys2Proof.Machine.execSubfmeo rD rA s
  | .subfmeoRc rD rA => Sys2Proof.Machine.execSubfmeoRc rD rA s
  | .addze rD rA => Sys2Proof.Machine.execAddze rD rA s
  | .addzeRc rD rA => Sys2Proof.Machine.execAddzeRc rD rA s
  | .addzeo rD rA => Sys2Proof.Machine.execAddzeo rD rA s
  | .addzeoRc rD rA => Sys2Proof.Machine.execAddzeoRc rD rA s
  | .subfze rD rA => Sys2Proof.Machine.execSubfze rD rA s
  | .subfzeRc rD rA => Sys2Proof.Machine.execSubfzeRc rD rA s
  | .subfzeo rD rA => Sys2Proof.Machine.execSubfzeo rD rA s
  | .subfzeoRc rD rA => Sys2Proof.Machine.execSubfzeoRc rD rA s
  | .neg rD rA => Sys2Proof.Machine.execNeg rD rA s
  | .negRc rD rA => Sys2Proof.Machine.execNegRc rD rA s
  | .nego rD rA => Sys2Proof.Machine.execNego rD rA s
  | .negoRc rD rA => Sys2Proof.Machine.execNegoRc rD rA s
  | .mulli rD rA simm => Sys2Proof.Machine.execMulli rD rA simm s
  | .mullw rD rA rB => Sys2Proof.Machine.execMullw rD rA rB s
  | .mullwRc rD rA rB => Sys2Proof.Machine.execMullwRc rD rA rB s
  | .mullwo rD rA rB => Sys2Proof.Machine.execMullwo rD rA rB s
  | .mullwoRc rD rA rB => Sys2Proof.Machine.execMullwoRc rD rA rB s
  | .mulhw rD rA rB => Sys2Proof.Machine.execMulhw rD rA rB s
  | .mulhwRc rD rA rB => Sys2Proof.Machine.execMulhwRc rD rA rB s
  | .mulhwu rD rA rB => Sys2Proof.Machine.execMulhwu rD rA rB s
  | .mulhwuRc rD rA rB => Sys2Proof.Machine.execMulhwuRc rD rA rB s
  | .divw rD rA rB => Sys2Proof.Machine.execDivw rD rA rB s
  | .divwRc rD rA rB => Sys2Proof.Machine.execDivwRc rD rA rB s
  | .divwo rD rA rB => Sys2Proof.Machine.execDivwo rD rA rB s
  | .divwoRc rD rA rB => Sys2Proof.Machine.execDivwoRc rD rA rB s
  | .divwu rD rA rB => Sys2Proof.Machine.execDivwu rD rA rB s
  | .divwuRc rD rA rB => Sys2Proof.Machine.execDivwuRc rD rA rB s
  | .divwuo rD rA rB => Sys2Proof.Machine.execDivwuo rD rA rB s
  | .divwuoRc rD rA rB => Sys2Proof.Machine.execDivwuoRc rD rA rB s
  | .cmpi crfD l rA simm => Sys2Proof.Machine.execCmpi crfD l rA simm s
  | .cmp crfD l rA rB => Sys2Proof.Machine.execCmp crfD l rA rB s
  | .cmpli crfD l rA uimm => Sys2Proof.Machine.execCmpli crfD l rA uimm s
  | .cmpl crfD l rA rB => Sys2Proof.Machine.execCmpl crfD l rA rB s
  | .andiRc rA rS uimm => Sys2Proof.Machine.execAndiRc rA rS uimm s
  | .andisRc rA rS uimm => Sys2Proof.Machine.execAndisRc rA rS uimm s
  | .ori rA rS uimm => Sys2Proof.Machine.execOri rA rS uimm s
  | .oris rA rS uimm => Sys2Proof.Machine.execOris rA rS uimm s
  | .xori rA rS uimm => Sys2Proof.Machine.execXori rA rS uimm s
  | .xoris rA rS uimm => Sys2Proof.Machine.execXoris rA rS uimm s
  | .and rA rS rB => Sys2Proof.Machine.execAnd rA rS rB s
  | .andRc rA rS rB => Sys2Proof.Machine.execAndRc rA rS rB s
  | .or rA rS rB => Sys2Proof.Machine.execOr rA rS rB s
  | .orRc rA rS rB => Sys2Proof.Machine.execOrRc rA rS rB s
  | .xor rA rS rB => Sys2Proof.Machine.execXor rA rS rB s
  | .xorRc rA rS rB => Sys2Proof.Machine.execXorRc rA rS rB s
  | .nand rA rS rB => Sys2Proof.Machine.execNand rA rS rB s
  | .nandRc rA rS rB => Sys2Proof.Machine.execNandRc rA rS rB s
  | .nor rA rS rB => Sys2Proof.Machine.execNor rA rS rB s
  | .norRc rA rS rB => Sys2Proof.Machine.execNorRc rA rS rB s
  | .eqv rA rS rB => Sys2Proof.Machine.execEqv rA rS rB s
  | .eqvRc rA rS rB => Sys2Proof.Machine.execEqvRc rA rS rB s
  | .andc rA rS rB => Sys2Proof.Machine.execAndc rA rS rB s
  | .andcRc rA rS rB => Sys2Proof.Machine.execAndcRc rA rS rB s
  | .orc rA rS rB => Sys2Proof.Machine.execOrc rA rS rB s
  | .orcRc rA rS rB => Sys2Proof.Machine.execOrcRc rA rS rB s
  | .extsb rA rS => Sys2Proof.Machine.execExtsb rA rS s
  | .extsbRc rA rS => Sys2Proof.Machine.execExtsbRc rA rS s
  | .extsh rA rS => Sys2Proof.Machine.execExtsh rA rS s
  | .extshRc rA rS => Sys2Proof.Machine.execExtshRc rA rS s
  | .cntlzw rA rS => Sys2Proof.Machine.execCntlzw rA rS s
  | .cntlzwRc rA rS => Sys2Proof.Machine.execCntlzwRc rA rS s
  | .rlwinm rA rS sh mb me => Sys2Proof.Machine.execRlwinm rA rS sh mb me s
  | .rlwinmRc rA rS sh mb me => Sys2Proof.Machine.execRlwinmRc rA rS sh mb me s
  | .rlwnm rA rS rB mb me => Sys2Proof.Machine.execRlwnm rA rS rB mb me s
  | .rlwnmRc rA rS rB mb me => Sys2Proof.Machine.execRlwnmRc rA rS rB mb me s
  | .rlwimi rA rS sh mb me => Sys2Proof.Machine.execRlwimi rA rS sh mb me s
  | .rlwimiRc rA rS sh mb me => Sys2Proof.Machine.execRlwimiRc rA rS sh mb me s
  | .slw rA rS rB => Sys2Proof.Machine.execSlw rA rS rB s
  | .slwRc rA rS rB => Sys2Proof.Machine.execSlwRc rA rS rB s
  | .srw rA rS rB => Sys2Proof.Machine.execSrw rA rS rB s
  | .srwRc rA rS rB => Sys2Proof.Machine.execSrwRc rA rS rB s
  | .srawi rA rS sh => Sys2Proof.Machine.execSrawi rA rS sh s
  | .srawiRc rA rS sh => Sys2Proof.Machine.execSrawiRc rA rS sh s
  | .sraw rA rS rB => Sys2Proof.Machine.execSraw rA rS rB s
  | .srawRc rA rS rB => Sys2Proof.Machine.execSrawRc rA rS rB s
  | .sc => Sys2Proof.Machine.execSc s
  | .twi trapOn rA simm => Sys2Proof.Machine.execTwi trapOn rA simm s
  | .tw trapOn rA rB => Sys2Proof.Machine.execTw trapOn rA rB s

end Sys2Proof.Machine
end

