-- ==== Sys2Proof/Machine/Fetch.lean ====
section
/-! DEFINITION. Fetching and decoding the instruction at the pc (spec/20_memory.md R31 to R33, spec/60_exceptions.md
R190, spec/70_reset_and_hazards.md R213), and placing a word where it is fetched. -/

namespace Sys2Proof.Machine

/-- Whether an instruction address is a multiple of 4 (R33). -/
def wordAligned (a : Word) : Bool := a.extractLsb' 0 2 == 0

/-- The instruction word at the pc, if memory defines its four bytes: big-endian (R31, R32). -/
def State.fetchWord (s : State) : Option Word :=
  match s.mem.readBytes s.pc 4 with
  | some [b0, b1, b2, b3] => some (wordOfBytes b0 b1 b2 b3)
  | _ => none

/-- The decoded instruction of a fetched word, or the outcome that ends the run (R60 to R62). -/
def decodedOutcome (pc w : Word) : Host.Outcome Instr Fault Refusal :=
  match decodeWord w with
  | .instr i => .next i
  | .invalidForm => .fault (.invalidForm pc w)
  | .refused => .refused (.refusedWord pc w)

/-- The instruction the step is to execute (`next`), or why there is none. In order: the pc is misaligned (R33);
the pc is END_PC (R213); memory has no word there (R31); the word is refused or an invalid form (R190, D18). Log entry
10. -/
def State.fetchInstr (s : State) : Host.Outcome Instr Fault Refusal :=
  if wordAligned s.pc then
    if s.endPc = some s.pc then .fault (.runEnded s.pc)
    else
      match s.fetchWord with
      | none => .fault (.stuck s.pc)
      | some w => decodedOutcome s.pc w
  else .refused (.misalignedPc s.pc)

/-- The multiple of 4 at or below an address. -/
def alignedDown (a : Word) : Word := a &&& ~~~3#32

/-- The state with the word `w` stored where the next step fetches, and nothing in the way of that fetch: the pc a
multiple of 4, and END_PC not there. Log entry 15. -/
def State.placeWord (s : State) (w : Word) : State :=
  let pc := alignedDown s.pc
  { s with
    pc := pc
    mem := s.mem.writeBytes pc (bytesOfWord w)
    endPc := if s.endPc = some pc then none else s.endPc }

end Sys2Proof.Machine
end

