-- ==== Sys2Proof/Machine/Step.lean ====
section
/-! DEFINITION. One step of the machine (spec/10_state.md R21). -/

namespace Sys2Proof.Machine

/-- Fetch and decode the instruction at the pc and execute it, or stop for the reason there is none (R21, R180, R190). -/
def step (s : State) : Host.Outcome State Fault Refusal :=
  match s.fetchInstr with
  | .next i => exec i s
  | .fault f => .fault f
  | .refused r => .refused r

/-- The state with the instruction whose bits, as spec/opcode_table.json numbers them, are the low `nbits` of `w`, stored
where the next step fetches it (log entry 15). -/
def State.withFetchWord (s : State) (nbits w : Nat) : State := s.placeWord (tableWord nbits w)

end Sys2Proof.Machine
end

