-- ==== Sys2Proof/Safety.lean ====
section
/-! DEFINITION. The terms claims are stated in: what an instruction does to a state, said without the model's own
operations (bits by their number in the manual, R2; values by exact arithmetic), which parts of the state each
instruction may change, the invariant of the machine, and which ends of a run are accepted. -/

namespace Sys2Proof.Machine

/-! ## What an instruction does -/

/-- LT, GT, EQ, the first three bits of a CR field (R13). -/
abbrev Order := Bool × Bool × Bool

/-- LT, GT, EQ of a comparison of two integers (R13). -/
def orderOf (a b : Int) : Order := (decide (a < b), decide (b < a), decide (a = b))

/-- LT, GT, EQ of a result: its signed comparison with zero (R15). -/
def signOrder (r : Word) : Order := orderOf r.toInt 0

/-- What an instruction that completes does: the target register and its value; CA, if written; OV, if written (SO is
then set with it, R16); the CR field, if written, with its LT, GT, EQ (the fourth bit is XER[SO] as it is afterwards,
R13); and how many draws it makes. Everything it does not name is unchanged but the pc, which advances by 4 (R12). -/
structure Effect where
  target : Option (Reg × Word) := none
  ca : Option Bool := none
  ov : Option Bool := none
  cr : Option (CrIndex × Order) := none
  drawn : Nat := 0

/-- The content of a register afterwards. -/
def Effect.gprAfter (e : Effect) (s : State) (g : Reg) : Word :=
  match e.target with
  | some (d, v) => if g = d then v else s.readGpr g
  | none => s.readGpr g

/-- Bit `i` of the XER afterwards: SO, OV, CA, and the 29 opaque bits (R14, R16, R17). -/
def Effect.xerBit (e : Effect) (s : State) (i : Nat) : Bool :=
  if i = 0 then s.xer.getMsbD 0 || e.ov.getD false
  else if i = 1 then e.ov.getD (s.xer.getMsbD 1)
  else if i = 2 then e.ca.getD (s.xer.getMsbD 2)
  else s.xer.getMsbD i

/-- Bit `i` of the CR afterwards, where XER[SO] is then `so`: field k is bits 4k to 4k+3 (R13). -/
def Effect.crBit (e : Effect) (s : State) (so : Bool) (i : Nat) : Bool :=
  match e.cr with
  | some (k, lt, gt, eq) =>
    if i / 4 = k.val then
      (if i % 4 = 0 then lt else if i % 4 = 1 then gt else if i % 4 = 2 then eq else so)
    else s.cr.getMsbD i
  | none => s.cr.getMsbD i

/-- The state after the effect: every register, every bit of the XER and the CR, the pc, and the rest, all of memory
among it, unchanged. -/
def Effect.Holds (e : Effect) (s t : State) : Prop :=
  (∀ g, t.readGpr g = e.gprAfter s g) ∧
  (∀ i, i < 32 → t.xer.getMsbD i = e.xerBit s i) ∧
  (∀ i, i < 32 → t.cr.getMsbD i = e.crBit s (t.xer.getMsbD 0) i) ∧
  t.pc = s.pc + 4 ∧ t.msr = s.msr ∧ (∀ a, t.mem.read a = s.mem.read a) ∧
  t.endPc = s.endPc ∧ t.draws = s.draws + e.drawn

/-- The instruction completes from `s`, with the effect. -/
def Completes (i : Instr) (s : State) (e : Effect) : Prop := ∃ t, exec i s = .next t ∧ e.Holds s t

/-- The two variants by Rc (R5, R15): the second also writes CR0 with the order of the result `r`. -/
def CompletesRc (plain record : Instr) (s : State) (e : Effect) (r : Word) : Prop :=
  Completes plain s e ∧ Completes record s { e with cr := some (0, signOrder r) }

/-- The four variants by OE and Rc (R5, R15, R16): the last two also write OV (and SO) with `ov`. -/
def CompletesOeRc (plain record overflow overflowRecord : Instr) (s : State) (e : Effect) (r : Word) (ov : Bool) : Prop :=
  CompletesRc plain record s e r ∧ CompletesRc overflow overflowRecord s { e with ov := some ov } r

/-- Bit `i` of `r`, numbered from the most significant end (R2), is `f i`, for all 32 bits. -/
def HasBits (r : Word) (f : Nat → Bool) : Prop := ∀ i, i < 32 → r.getMsbD i = f i

/-- The instruction completes and places a word with the bits `f` in `d`. -/
def CompletesBits (i : Instr) (s : State) (d : Reg) (f : Nat → Bool) : Prop :=
  ∃ r, HasBits r f ∧ Completes i s { target := some (d, r) }

/-- The same for an instruction that always records (R15). -/
def CompletesBitsRecording (i : Instr) (s : State) (d : Reg) (f : Nat → Bool) : Prop :=
  ∃ r, HasBits r f ∧ Completes i s { target := some (d, r), cr := some (0, signOrder r) }

/-- The same for the two variants by Rc. -/
def CompletesBitsRc (plain record : Instr) (s : State) (d : Reg) (f : Nat → Bool) : Prop :=
  ∃ r, HasBits r f ∧ CompletesRc plain record s { target := some (d, r) } r

/-- The instruction completes with some word in `d` and, where it records, some LT, GT and EQ in CR0: it is left open
which, and whether the model's counter of draws advances (R106). -/
def CompletesWithSome (i : Instr) (s : State) (d : Reg) (record : Bool) (ov : Option Bool) : Prop :=
  ∃ (r : Word) (order : Order) (n : Nat),
    Completes i s { target := some (d, r), ov := ov, cr := if record then some (0, order) else none, drawn := n }

/-- The four variants of a divide without a defined result (R106): rD and, with Rc = 1, LT, GT and EQ are undefined; OV
and SO are set with OE = 1. -/
def CompletesUndefined (plain record overflow overflowRecord : Instr) (s : State) (d : Reg) : Prop :=
  CompletesWithSome plain s d false none ∧ CompletesWithSome record s d true none ∧
  CompletesWithSome overflow s d false (some true) ∧ CompletesWithSome overflowRecord s d true (some true)

/-- The operands without a defined quotient (R104, R105, R106). -/
def UndefinedQuotient (signed : Bool) (a b : Word) : Prop :=
  b = 0 ∨ (signed = true ∧ a.toInt = -2147483648 ∧ b.toInt = -1)

/-- An execution of a divide without a defined quotient. -/
def UndefinedDivide (s : State) : Instr → Prop
  | .divw _ rA rB => UndefinedQuotient true (s.readGpr rA) (s.readGpr rB)
  | .divwRc _ rA rB => UndefinedQuotient true (s.readGpr rA) (s.readGpr rB)
  | .divwo _ rA rB => UndefinedQuotient true (s.readGpr rA) (s.readGpr rB)
  | .divwoRc _ rA rB => UndefinedQuotient true (s.readGpr rA) (s.readGpr rB)
  | .divwu _ rA rB => UndefinedQuotient false (s.readGpr rA) (s.readGpr rB)
  | .divwuRc _ rA rB => UndefinedQuotient false (s.readGpr rA) (s.readGpr rB)
  | .divwuo _ rA rB => UndefinedQuotient false (s.readGpr rA) (s.readGpr rB)
  | .divwuoRc _ rA rB => UndefinedQuotient false (s.readGpr rA) (s.readGpr rB)
  | _ => False

/-- Whether 32 signed bits cannot hold an exact integer (R16, R101). -/
def unrepresentable (n : Int) : Bool := decide (n < -2147483648) || decide (2147483648 ≤ n)

/-- `carry32` of three addends, in natural numbers (R17). -/
def carryOut (x y : Word) (c : Bool) : Bool := decide (2 ^ 32 ≤ x.toNat + y.toNat + c.toNat)

/-- `ovf32` of three addends: the exact signed sum is not representable (R16). -/
def sumOverflows (x y : Word) (c : Bool) : Bool := unrepresentable (x.toInt + y.toInt + c.toNat)

/-- Whether bit `i` lies in the mask from `mb` through `me`, which wraps from 31 to 0 when mb > me (R150). -/
def inMask (mb me : BitPos) (i : Nat) : Bool :=
  if mb.val ≤ me.val then decide (mb.val ≤ i) && decide (i ≤ me.val) else decide (mb.val ≤ i) || decide (i ≤ me.val)

/-- `TRAPCOND(TO, a, b)` in exact arithmetic (R171). -/
def TrapHolds (trapOn : BitVec 5) (a b : Word) : Prop :=
  (trapOn.getMsbD 0 = true ∧ a.toInt < b.toInt) ∨ (trapOn.getMsbD 1 = true ∧ b.toInt < a.toInt) ∨
  (trapOn.getMsbD 2 = true ∧ a = b) ∨ (trapOn.getMsbD 3 = true ∧ a.toNat < b.toNat) ∨
  (trapOn.getMsbD 4 = true ∧ b.toNat < a.toNat)

/-! ## The value of an instruction word, field by field (R46 to R51) -/

/-- D-form. -/
def dValue (opcd d a imm : Nat) : Nat := opcd * 2 ^ 26 + d * 2 ^ 21 + a * 2 ^ 16 + imm

/-- X-form, OPCD = 31. -/
def xValue (s a b xo rc : Nat) : Nat := 31 * 2 ^ 26 + s * 2 ^ 21 + a * 2 ^ 16 + b * 2 ^ 11 + xo * 2 + rc

/-- XO-form, OPCD = 31. -/
def xoValue (d a b oe xo rc : Nat) : Nat :=
  31 * 2 ^ 26 + d * 2 ^ 21 + a * 2 ^ 16 + b * 2 ^ 11 + oe * 2 ^ 10 + xo * 2 + rc

/-- M-form. -/
def mValue (opcd s a b mb me rc : Nat) : Nat :=
  opcd * 2 ^ 26 + s * 2 ^ 21 + a * 2 ^ 16 + b * 2 ^ 11 + mb * 2 ^ 6 + me * 2 + rc

/-- The encodings of the two variants by Rc of an X-form instruction. -/
def EncodedX (plain record : Instr) (s a b xo : Nat) : Prop :=
  (encode plain).toNat = xValue s a b xo 0 ∧ (encode record).toNat = xValue s a b xo 1

/-- The encodings of the two variants by Rc of an M-form instruction. -/
def EncodedM (plain record : Instr) (opcd s a b mb me : Nat) : Prop :=
  (encode plain).toNat = mValue opcd s a b mb me 0 ∧ (encode record).toNat = mValue opcd s a b mb me 1

/-- The encodings of the four variants by OE and Rc of an XO-form instruction. -/
def EncodedXo (plain record overflow overflowRecord : Instr) (d a b xo : Nat) : Prop :=
  (encode plain).toNat = xoValue d a b 0 xo 0 ∧ (encode record).toNat = xoValue d a b 0 xo 1 ∧
  (encode overflow).toNat = xoValue d a b 1 xo 0 ∧ (encode overflowRecord).toNat = xoValue d a b 1 xo 1

/-- The primary opcode of a word, its six most significant bits (R45). -/
def opcdOf (w : Word) : Nat := w.toNat / 2 ^ 26

/-- Bits 21 to 30 of a word, the extended opcode of the X-form (R46). -/
def xo10Of (w : Word) : Nat := w.toNat / 2 % 2 ^ 10

/-- Bits 22 to 30 of a word, the extended opcode of the XO-form (R46). -/
def xo9Of (w : Word) : Nat := w.toNat / 2 % 2 ^ 9

/-- Bits 16 to 20 of a word, the rB or SH field (R46). -/
def rBOf (w : Word) : Nat := w.toNat / 2 ^ 11 % 32

/-- The X-form extended opcodes in scope (R57). -/
def xFormOpcodes : List Nat := [0, 4, 24, 26, 28, 32, 60, 124, 284, 316, 412, 444, 476, 536, 792, 824, 922, 954]

/-- The XO-form extended opcodes in scope (R57). -/
def xoFormOpcodes : List Nat := [8, 10, 11, 40, 75, 104, 136, 138, 200, 202, 232, 234, 235, 266, 459, 491]

/-- The primary opcodes of one instruction each, or of two that Rc tells apart (R56). -/
def primaryOpcodes : List Nat := [3, 7, 8, 10, 11, 12, 13, 14, 15, 20, 21, 23, 24, 25, 26, 27, 28, 29]

/-! ## What each instruction may change -/

/-- The parts of the state an instruction may change beside the pc: a register, CA, OV and SO, a CR field, and the
exception it can raise, if any. -/
structure Footprint where
  gpr : Option Reg := none
  ca : Bool := false
  overflow : Bool := false
  cr : Option CrIndex := none
  raises : Option ExceptionKind := none

/-- R10 to R17 and R194, instruction by instruction: the target register; CA for the carry list of R17 and the algebraic
shifts; OV and SO for OE = 1; CR0 for Rc = 1, `addic.`, `andi.` and `andis.`, crfD for a compare; an exception for `sc`,
`twi` and `tw`. -/
def footprint : Instr → Footprint
  | .addi rD _ _ => { gpr := some rD }
  | .addis rD _ _ => { gpr := some rD }
  | .add rD _ _ => { gpr := some rD }
  | .addRc rD _ _ => { gpr := some rD, cr := some 0 }
  | .addo rD _ _ => { gpr := some rD, overflow := true }
  | .addoRc rD _ _ => { gpr := some rD, overflow := true, cr := some 0 }
  | .subf rD _ _ => { gpr := some rD }
  | .subfRc rD _ _ => { gpr := some rD, cr := some 0 }
  | .subfo rD _ _ => { gpr := some rD, overflow := true }
  | .subfoRc rD _ _ => { gpr := some rD, overflow := true, cr := some 0 }
  | .addic rD _ _ => { gpr := some rD, ca := true }
  | .addicRc rD _ _ => { gpr := some rD, ca := true, cr := some 0 }
  | .subfic rD _ _ => { gpr := some rD, ca := true }
  | .addc rD _ _ => { gpr := some rD, ca := true }
  | .addcRc rD _ _ => { gpr := some rD, ca := true, cr := some 0 }
  | .addco rD _ _ => { gpr := some rD, ca := true, overflow := true }
  | .addcoRc rD _ _ => { gpr := some rD, ca := true, overflow := true, cr := some 0 }
  | .subfc rD _ _ => { gpr := some rD, ca := true }
  | .subfcRc rD _ _ => { gpr := some rD, ca := true, cr := some 0 }
  | .subfco rD _ _ => { gpr := some rD, ca := true, overflow := true }
  | .subfcoRc rD _ _ => { gpr := some rD, ca := true, overflow := true, cr := some 0 }
  | .adde rD _ _ => { gpr := some rD, ca := true }
  | .addeRc rD _ _ => { gpr := some rD, ca := true, cr := some 0 }
  | .addeo rD _ _ => { gpr := some rD, ca := true, overflow := true }
  | .addeoRc rD _ _ => { gpr := some rD, ca := true, overflow := true, cr := some 0 }
  | .subfe rD _ _ => { gpr := some rD, ca := true }
  | .subfeRc rD _ _ => { gpr := some rD, ca := true, cr := some 0 }
  | .subfeo rD _ _ => { gpr := some rD, ca := true, overflow := true }
  | .subfeoRc rD _ _ => { gpr := some rD, ca := true, overflow := true, cr := some 0 }
  | .addme rD _ => { gpr := some rD, ca := true }
  | .addmeRc rD _ => { gpr := some rD, ca := true, cr := some 0 }
  | .addmeo rD _ => { gpr := some rD, ca := true, overflow := true }
  | .addmeoRc rD _ => { gpr := some rD, ca := true, overflow := true, cr := some 0 }
  | .subfme rD _ => { gpr := some rD, ca := true }
  | .subfmeRc rD _ => { gpr := some rD, ca := true, cr := some 0 }
  | .subfmeo rD _ => { gpr := some rD, ca := true, overflow := true }
  | .subfmeoRc rD _ => { gpr := some rD, ca := true, overflow := true, cr := some 0 }
  | .addze rD _ => { gpr := some rD, ca := true }
  | .addzeRc rD _ => { gpr := some rD, ca := true, cr := some 0 }
  | .addzeo rD _ => { gpr := some rD, ca := true, overflow := true }
  | .addzeoRc rD _ => { gpr := some rD, ca := true, overflow := true, cr := some 0 }
  | .subfze rD _ => { gpr := some rD, ca := true }
  | .subfzeRc rD _ => { gpr := some rD, ca := true, cr := some 0 }
  | .subfzeo rD _ => { gpr := some rD, ca := true, overflow := true }
  | .subfzeoRc rD _ => { gpr := some rD, ca := true, overflow := true, cr := some 0 }
  | .neg rD _ => { gpr := some rD }
  | .negRc rD _ => { gpr := some rD, cr := some 0 }
  | .nego rD _ => { gpr := some rD, overflow := true }
  | .negoRc rD _ => { gpr := some rD, overflow := true, cr := some 0 }
  | .mulli rD _ _ => { gpr := some rD }
  | .mullw rD _ _ => { gpr := some rD }
  | .mullwRc rD _ _ => { gpr := some rD, cr := some 0 }
  | .mullwo rD _ _ => { gpr := some rD, overflow := true }
  | .mullwoRc rD _ _ => { gpr := some rD, overflow := true, cr := some 0 }
  | .mulhw rD _ _ => { gpr := some rD }
  | .mulhwRc rD _ _ => { gpr := some rD, cr := some 0 }
  | .mulhwu rD _ _ => { gpr := some rD }
  | .mulhwuRc rD _ _ => { gpr := some rD, cr := some 0 }
  | .divw rD _ _ => { gpr := some rD }
  | .divwRc rD _ _ => { gpr := some rD, cr := some 0 }
  | .divwo rD _ _ => { gpr := some rD, overflow := true }
  | .divwoRc rD _ _ => { gpr := some rD, overflow := true, cr := some 0 }
  | .divwu rD _ _ => { gpr := some rD }
  | .divwuRc rD _ _ => { gpr := some rD, cr := some 0 }
  | .divwuo rD _ _ => { gpr := some rD, overflow := true }
  | .divwuoRc rD _ _ => { gpr := some rD, overflow := true, cr := some 0 }
  | .cmpi crfD _ _ _ => { cr := some crfD }
  | .cmp crfD _ _ _ => { cr := some crfD }
  | .cmpli crfD _ _ _ => { cr := some crfD }
  | .cmpl crfD _ _ _ => { cr := some crfD }
  | .andiRc rA _ _ => { gpr := some rA, cr := some 0 }
  | .andisRc rA _ _ => { gpr := some rA, cr := some 0 }
  | .ori rA _ _ => { gpr := some rA }
  | .oris rA _ _ => { gpr := some rA }
  | .xori rA _ _ => { gpr := some rA }
  | .xoris rA _ _ => { gpr := some rA }
  | .and rA _ _ => { gpr := some rA }
  | .andRc rA _ _ => { gpr := some rA, cr := some 0 }
  | .or rA _ _ => { gpr := some rA }
  | .orRc rA _ _ => { gpr := some rA, cr := some 0 }
  | .xor rA _ _ => { gpr := some rA }
  | .xorRc rA _ _ => { gpr := some rA, cr := some 0 }
  | .nand rA _ _ => { gpr := some rA }
  | .nandRc rA _ _ => { gpr := some rA, cr := some 0 }
  | .nor rA _ _ => { gpr := some rA }
  | .norRc rA _ _ => { gpr := some rA, cr := some 0 }
  | .eqv rA _ _ => { gpr := some rA }
  | .eqvRc rA _ _ => { gpr := some rA, cr := some 0 }
  | .andc rA _ _ => { gpr := some rA }
  | .andcRc rA _ _ => { gpr := some rA, cr := some 0 }
  | .orc rA _ _ => { gpr := some rA }
  | .orcRc rA _ _ => { gpr := some rA, cr := some 0 }
  | .extsb rA _ => { gpr := some rA }
  | .extsbRc rA _ => { gpr := some rA, cr := some 0 }
  | .extsh rA _ => { gpr := some rA }
  | .extshRc rA _ => { gpr := some rA, cr := some 0 }
  | .cntlzw rA _ => { gpr := some rA }
  | .cntlzwRc rA _ => { gpr := some rA, cr := some 0 }
  | .rlwinm rA _ _ _ _ => { gpr := some rA }
  | .rlwinmRc rA _ _ _ _ => { gpr := some rA, cr := some 0 }
  | .rlwnm rA _ _ _ _ => { gpr := some rA }
  | .rlwnmRc rA _ _ _ _ => { gpr := some rA, cr := some 0 }
  | .rlwimi rA _ _ _ _ => { gpr := some rA }
  | .rlwimiRc rA _ _ _ _ => { gpr := some rA, cr := some 0 }
  | .slw rA _ _ => { gpr := some rA }
  | .slwRc rA _ _ => { gpr := some rA, cr := some 0 }
  | .srw rA _ _ => { gpr := some rA }
  | .srwRc rA _ _ => { gpr := some rA, cr := some 0 }
  | .srawi rA _ _ => { gpr := some rA, ca := true }
  | .srawiRc rA _ _ => { gpr := some rA, ca := true, cr := some 0 }
  | .sraw rA _ _ => { gpr := some rA, ca := true }
  | .srawRc rA _ _ => { gpr := some rA, ca := true, cr := some 0 }
  | .sc => { raises := some .systemCall }
  | .twi _ _ _ => { raises := some .programTrap }
  | .tw _ _ _ => { raises := some .programTrap }

/-! ## The invariant, and the ends of a run -/

/-- What every step keeps: memory in its canonical form, the pc a multiple of 4 (R12, R33), SO set wherever OV is (R16). -/
def State.Inv (s : State) : Prop :=
  s.mem.wf = true ∧ s.pc.toNat % 4 = 0 ∧ (s.xer.getMsbD 1 = true → s.xer.getMsbD 0 = true)

/-- A step executes an instruction, if memory has one: the pc is aligned, and it is not END_PC (R33, R213). -/
def State.Running (s : State) : Prop :=
  s.pc.toNat % 4 = 0 ∧ s.endPc ≠ some s.pc

/-- The four bytes at the pc, at ascending addresses (R31). -/
def State.HoldsBytes (s : State) (b0 b1 b2 b3 : Byte) : Prop :=
  s.mem.read s.pc.toNat = some b0 ∧ s.mem.read (s.pc + 1).toNat = some b1 ∧
  s.mem.read (s.pc + 2).toNat = some b2 ∧ s.mem.read (s.pc + 3).toNat = some b3

/-- The word at the pc is `w`: its most significant byte lies at the lowest address (R31, R32). -/
def State.HoldsWord (s : State) (w : Word) : Prop :=
  ∃ b0 b1 b2 b3, s.HoldsBytes b0 b1 b2 b3 ∧
    w.toNat = b0.toNat * 2 ^ 24 + b1.toNat * 2 ^ 16 + b2.toNat * 2 ^ 8 + b3.toNat

/-- Ends of a run a claim may accept: END_PC reached, which is final (R213), and a system call raised at any address. The
second is a DESIGN CHOICE, log entry 17, unsafe: R213 leaves it to each claim ("A claim may choose to accept
`Exception(SystemCall)` at a stated address"), so a claim that ends so has to state the address beside this. -/
def Fault.accepted : Fault → Bool
  | .runEnded _ => true
  | .exception e => e.kind == .systemCall
  | .invalidForm _ _ => false
  | .stuck _ => false

end Sys2Proof.Machine
end

