-- ==== Sys2Proof/Certificates/Slice0/Obligations.lean ====
section
/-! DEFINITION. The statements for the provers, from the numbered rules of spec/. -/

open Sys2Proof Sys2Proof.Machine

/-- Sample words of every family decode to the instructions they stand for (derived: R46, R56, R57,
spec/95_test_vectors.md section 1.2). Fourteen words, each taken from a worked example of the instruction's own rule,
decode to that instruction with its operands; the first also does when it is laid out as bytes. -/
def Obligations.DecodeSampleWords : Prop :=
  decodeWord 0x3864FFFF = .instr (.addi 3 4 0xFFFF) ∧
  decodeWord 0x7C642A14 = .instr (.add 3 4 5) ∧
  decodeWord 0x7C642E15 = .instr (.addoRc 3 4 5) ∧
  decodeWord 0x7C6401D4 = .instr (.addme 3 4) ∧
  decodeWord 0x1C64FFFD = .instr (.mulli 3 4 0xFFFD) ∧
  decodeWord 0x7C642BD6 = .instr (.divw 3 4 5) ∧
  decodeWord 0x2F83FFFF = .instr (.cmpi 7 false 3 0xFFFF) ∧
  decodeWord 0x7083FF00 = .instr (.andiRc 3 4 0xFF00) ∧
  decodeWord 0x7C832838 = .instr (.and 3 4 5) ∧
  decodeWord 0x5483463F = .instr (.rlwinmRc 3 4 8 24 31) ∧
  decodeWord 0x7C831670 = .instr (.srawi 3 4 2) ∧
  decodeWord 0x44000002 = .instr .sc ∧
  decodeWord 0x0E03000A = .instr (.twi 16 3 10) ∧
  decodeWord 0x7C832008 = .instr (.tw 4 3 4) ∧
  decodeBytes [0x38, 0x64, 0xFF, 0xFF] = .instr (.addi 3 4 0xFFFF)

/-- Decoding the word of a well-formed instruction gives it back (derived: R45, R46, R55, R56, R57). For every well-formed
instruction, with every operand at every value its field admits, decoding its word gives that instruction, and so does
decoding the bytes of its word as they lie in memory. -/
def Obligations.DecodeOfEncode : Prop :=
  ∀ i : Instr, i.wellFormed = true →
    decodeWord (encode i) = .instr i ∧ decodeBytes (bytesOfWord (encode i)) = .instr i

/-- A word that decodes to an instruction is the word of that instruction, which is well-formed (derived: R55, R56, R57,
R60, R61). If a 32-bit word decodes to an instruction, that instruction is well-formed and its word is the word
decoded: no two words mean the same instruction and no bit of a word is ignored. -/
def Obligations.EncodeOfDecode : Prop :=
  ∀ (w : Word) (i : Instr), decodeWord w = .instr i → encode i = w ∧ i.wellFormed = true

/-- A compare word with L = 1 is an invalid form, and the step ends there with nothing written (stated: R61). Every word
whose opcode selects cmpi, cmpli, cmp or cmpl and whose bit 10 is 1 decodes to InvalidForm, and a step of a running
machine that holds such a word at its pc answers the fault InvalidForm(pc, word), with no next state. -/
def Obligations.CompareWithLInvalid : Prop :=
  ∀ w : Word,
    (opcdOf w = 10 ∨ opcdOf w = 11 ∨ (opcdOf w = 31 ∧ (xo10Of w = 0 ∨ xo10Of w = 32))) → w.getMsbD 10 = true →
      decodeWord w = .invalidForm ∧
      ∀ s : State, s.Running → s.HoldsWord w → step s = .fault (.invalidForm s.pc w)

/-- A word that selects an instruction and has a reserved bit set is an invalid form (stated: R60). Bit 9 of the compares;
bit 31 of cmp, cmpl and tw; the rB field of addme, subfme, addze, subfze, neg, extsb, extsh and cntlzw; bit 21 of
mulhw and mulhwu; any bit of sc but those of its one word: a word with one of these set decodes to InvalidForm, and a
step of a running machine that holds a word decoding so answers InvalidForm(pc, word). -/
def Obligations.ReservedBitsInvalid : Prop :=
  (∀ w : Word,
    ((opcdOf w = 10 ∨ opcdOf w = 11 ∨ (opcdOf w = 31 ∧ (xo10Of w = 0 ∨ xo10Of w = 32))) ∧ w.getMsbD 9 = true) ∨
    (opcdOf w = 31 ∧ (xo10Of w = 0 ∨ xo10Of w = 32 ∨ xo10Of w = 4) ∧ w.getMsbD 31 = true) ∨
    (opcdOf w = 31 ∧ xo9Of w ∈ [104, 200, 202, 232, 234] ∧ rBOf w ≠ 0) ∨
    (opcdOf w = 31 ∧ xo10Of w ∈ [26, 922, 954] ∧ rBOf w ≠ 0) ∨
    (opcdOf w = 31 ∧ xo9Of w ∈ [11, 75] ∧ w.getMsbD 21 = true) ∨
    (opcdOf w = 17 ∧ w.getMsbD 30 = true ∧ w ≠ 0x44000002) →
      decodeWord w = .invalidForm) ∧
  ∀ (w : Word) (s : State), decodeWord w = .invalidForm → s.Running → s.HoldsWord w →
    step s = .fault (.invalidForm s.pc w)

/-- A word is refused exactly when the opcode tables select no instruction for it (derived: R55, R56, R57, R62). The
decoder refuses a word exactly when its primary opcode is not in the table of R56, or is 17 with bit 30 clear, or is
31 with neither its 10-bit extended opcode in the X-form table nor its 9-bit one in the XO-form table of R57; a step
of a running machine that holds a refused word answers Refused(pc, word). -/
def Obligations.RefusedWords : Prop :=
  (∀ w : Word, decodeWord w = .refused ↔
    ¬ (opcdOf w ∈ primaryOpcodes ∨ (opcdOf w = 17 ∧ w.getMsbD 30 = true) ∨
      (opcdOf w = 31 ∧ (xo10Of w ∈ xFormOpcodes ∨ xo9Of w ∈ xoFormOpcodes)))) ∧
  ∀ (w : Word) (s : State), decodeWord w = .refused → s.Running → s.HoldsWord w →
    step s = .refused (.refusedWord s.pc w)

/-- Fetch forms the word from the four bytes at the pc, the byte at the lowest address the most significant (stated: R32).
A word is fetched exactly when memory defines the four bytes at pc, pc+1, pc+2 and pc+3, and it is then the word that
those bytes form with the byte at the lowest address the most significant, bits 0 to 7; the word 0x7C642A14 lies in
memory as the bytes 7C 64 2A 14. (Addresses wrap modulo 2^32.) -/
def Obligations.FetchBigEndian : Prop :=
  (∀ (s : State) (w : Word), s.fetchWord = some w ↔ s.HoldsWord w) ∧
  (∀ (s : State) (w : Word) (b0 b1 b2 b3 : Byte), s.HoldsBytes b0 b1 b2 b3 → s.fetchWord = some w →
    ∀ j, j < 8 → w.getMsbD j = b0.getMsbD j ∧ w.getMsbD (8 + j) = b1.getMsbD j ∧ w.getMsbD (16 + j) = b2.getMsbD j ∧
      w.getMsbD (24 + j) = b3.getMsbD j) ∧
  bytesOfWord 0x7C642A14 = [0x7C, 0x64, 0x2A, 0x14]

/-- A step runs the decoded instruction (derived: R21, R31, R55). When a running machine holds at its pc a word that
decodes to an instruction, the step is exec of that instruction at that state, with nothing added around it; this
holds in particular where the bytes are those of a well-formed instruction's word. -/
def Obligations.StepRunsDecodedInstruction : Prop :=
  (∀ (s : State) (w : Word) (i : Instr), s.Running → s.HoldsWord w → decodeWord w = .instr i → step s = exec i s) ∧
  ∀ (s : State) (i : Instr), i.wellFormed = true → s.Running → s.HoldsWord (encode i) → step s = exec i s

/-- What stops a run before decoding: a misaligned pc, END_PC, no word at the pc (derived: 20_memory.md R31, 20_memory.md
R33, 70_reset_and_hazards.md R213, 60_exceptions.md R190). A step at a pc that is no multiple of 4 is refused; with an
aligned pc, a step at END_PC answers the final end of the run; and a running machine whose memory does not define all
four bytes at the pc is stuck. END_PC as a field, the refusal at every step and the order of these checks are the
model's (log entries 5, 9 and 10). -/
def Obligations.StopsBeforeDecoding : Prop :=
  ∀ s : State,
    (s.pc.toNat % 4 ≠ 0 → step s = .refused (.misalignedPc s.pc)) ∧
    (s.pc.toNat % 4 = 0 → s.endPc = some s.pc → step s = .fault (.runEnded s.pc)) ∧
    (s.Running → (∀ w, ¬ s.HoldsWord w) → step s = .fault (.stuck s.pc))

/-- Every step keeps the invariant of the machine (derived: R12, R16, R31, R33). From every state that meets the
invariant, reached or not, a step that answers a next state leads to a state that meets it: memory in its canonical
form, the pc a multiple of 4, and SO set wherever OV is. -/
def Obligations.StepKeepsInv : Prop :=
  ∀ s t : State, s.Inv → step s = .next t → t.Inv

/-- The state after reset, at the values the model chose for it, meets the invariant (log entries 2, 3, 4) (derived:
20_memory.md R31, 10_state.md R20, 70_reset_and_hazards.md R210). The state after reset meets the invariant that
StepKeepsInv is about. It rests on the model's own reset values, since the spec says that no register has a reset
value (R20, R210): the pc of log entry 2 is a multiple of 4, the XER of log entry 3 is 0, so that OV is clear, and the
memory of log entry 4 lists nothing. -/
def Obligations.ResetInv : Prop :=
  State.reset.Inv

/-- The values after reset (the model's choice: log entries 2, 3, 4, 5) (derived: 10_state.md R20, 70_reset_and_hazards.md
R210, 93_implementation_defined.md K16). After reset the pc is the system reset vector 0xFFF00100, MSR holds IP alone,
every general-purpose register, the CR and the XER are 0, no address has a byte and there is no END_PC. The spec
states no reset value (R20, R210): the pc and MSR are the family's (log entry 2), the other values the model's choice
(log entries 3, 4 and 5). -/
def Obligations.ResetValues : Prop :=
  State.reset.pc = 0xFFF00100 ∧ State.reset.msr = 0x00000040 ∧ (∀ g, State.reset.readGpr g = 0) ∧
  State.reset.cr = 0 ∧ State.reset.xer = 0 ∧ (∀ a, State.reset.mem.read a = none) ∧ State.reset.endPc = none

/-- The step after an instruction is placed with withFetchWord runs exactly that instruction (derived: R31, R32, R55,
spec/20_memory.md section 2). For every state and every well-formed instruction, the step at the state in which
withFetchWord has placed the instruction's word is exec of that instruction there; placing changes no register but the
pc, which is moved down to a multiple of 4, and no byte but the four at that pc (log entry 15). -/
def Obligations.PlacedInstructionRuns : Prop :=
  ∀ (s : State) (i : Instr), i.wellFormed = true →
    let u := s.withFetchWord 32 (encode i).toNat
    step u = exec i u ∧ u.pc.toNat = s.pc.toNat / 4 * 4 ∧ (∀ g, u.readGpr g = s.readGpr g) ∧ u.cr = s.cr ∧
      u.xer = s.xer ∧ u.msr = s.msr ∧ u.draws = s.draws ∧
      ∀ a, a < u.pc.toNat ∨ u.pc.toNat + 4 ≤ a → u.mem.read a = s.mem.read a

/-- Every well-formed instruction but sc, twi and tw completes; those three advance the pc alone or raise the one
exception that is theirs (derived: R21, R180, R194). From every state, exec of a well-formed instruction other than
sc, twi and tw answers a next state, with the pc advanced by 4: no ordinary data ends a run. exec of sc, twi or tw
either answers the state with the pc advanced by 4 and nothing else changed, or is the outcome Exception of the one
kind its footprint names, with at = pc and next = pc + 4 for the system call and the pc otherwise; which of the two it
is, is left to SystemCall (sc always raises) and TrapInstructions. A compare with L = 1 is no well-formed instruction:
CompareSigned and CompareUnsigned say what it answers. -/
def Obligations.EveryInstructionCompletesOrRaises : Prop :=
  ∀ (i : Instr) (s : State), i.wellFormed = true →
    ((footprint i).raises = none → ∃ t, exec i s = .next t ∧ t.pc = s.pc + 4) ∧
    ∀ k, (footprint i).raises = some k →
      exec i s = .next { s with pc := s.pc + 4 } ∨
      exec i s = .fault (.exception
        { kind := k, raisedAt := s.pc, next := if k = .systemCall then s.pc + 4 else s.pc })

/-- An instruction that completes advances the pc by 4 modulo 2^32, and an exception comes from sc, twi or tw alone
(derived: R12, R180, R183, R184, R193, R194). If exec of any instruction answers a next state, its pc is (pc + 4) mod
2^32. If its outcome is an exception, at is the pc of the instruction, and either the instruction is sc, the kind
SystemCall and next (pc + 4) mod 2^32, or the instruction is twi or tw, the kind Program(Trap) and next the pc. -/
def Obligations.NextPcOrException : Prop :=
  ∀ (i : Instr) (s : State),
    (∀ t, exec i s = .next t → t.pc.toNat = (s.pc.toNat + 4) % 2 ^ 32) ∧
    ∀ e, exec i s = .fault (.exception e) →
      e.raisedAt = s.pc ∧
      ((i = .sc ∧ e.kind = .systemCall ∧ e.next.toNat = (s.pc.toNat + 4) % 2 ^ 32) ∨
        (((∃ trapOn rA simm, i = .twi trapOn rA simm) ∨ ∃ trapOn rA rB, i = .tw trapOn rA rB) ∧
          e.kind = .programTrap ∧ e.next = s.pc))

/-- No instruction changes anything outside its footprint (derived: R10, R13, R14, R15, R16, R17, R18, R21, R31). For
every instruction and every state from which exec answers a next state: every general-purpose register but the target
is unchanged; XER bits 0 and 1 (SO, OV) change only with OE = 1, bit 2 (CA) only for the carry list and the algebraic
shifts, bits 3 to 31 never; every CR bit outside the one field written is unchanged; and MSR, END_PC and every byte of
memory are unchanged, since no instruction stores. -/
def Obligations.NothingElseChanges : Prop :=
  ∀ (i : Instr) (s t : State), exec i s = .next t →
    (∀ g, (footprint i).gpr ≠ some g → t.readGpr g = s.readGpr g) ∧
    (∀ n, n < 2 → (footprint i).overflow = false → t.xer.getMsbD n = s.xer.getMsbD n) ∧
    ((footprint i).ca = false → t.xer.getMsbD 2 = s.xer.getMsbD 2) ∧
    (∀ n, 3 ≤ n → n < 32 → t.xer.getMsbD n = s.xer.getMsbD n) ∧
    (∀ n, n < 32 → (∀ k, (footprint i).cr = some k → n / 4 ≠ k.val) → t.cr.getMsbD n = s.cr.getMsbD n) ∧
    t.msr = s.msr ∧ t.endPc = s.endPc ∧ (∀ a, t.mem.read a = s.mem.read a)

/-- SO is never cleared, and OV is set only together with it (derived: R16). If exec of any instruction answers a next
state, SO is set there wherever it was set before, and an instruction that leaves OV set where it was clear leaves SO
set. -/
def Obligations.SummaryOverflowIsSticky : Prop :=
  ∀ (i : Instr) (s t : State), exec i s = .next t →
    (s.xer.getMsbD 0 = true → t.xer.getMsbD 0 = true) ∧
    (s.xer.getMsbD 1 = false → t.xer.getMsbD 1 = true → t.xer.getMsbD 0 = true)

/-- No instruction reads the CR or the MSR (derived: R13, R18). Give two states that differ only in their CR and MSR:
where exec of an instruction answers a next state from the one, it does from the other, and the two next states have
the same registers, XER, pc and draw counter, and the same content in the CR field the instruction writes; and where
the one execution ends in an exception, so does the other, in the same one. (The two runs make the same draws: log
entry 7.) -/
def Obligations.CrAndMsrNeverRead : Prop :=
  ∀ (i : Instr) (s : State) (c m : Word),
    (∀ t, exec i s = .next t →
      ∃ u, exec i { s with cr := c, msr := m } = .next u ∧ (∀ g, u.readGpr g = t.readGpr g) ∧ u.xer = t.xer ∧
        u.pc = t.pc ∧ u.draws = t.draws ∧
        ∀ n, n < 32 → (∃ k, (footprint i).cr = some k ∧ n / 4 = k.val) → u.cr.getMsbD n = t.cr.getMsbD n) ∧
    ∀ e, exec i s = .fault (.exception e) → exec i { s with cr := c, msr := m } = .fault (.exception e)

/-- An undefined divide takes the draws at the counter and advances it, and nothing else does (the model's form, log
entries 7 and 16) (derived: R106, 92_eei_decisions.md D7). An execution of a divide without a defined quotient leaves
in its target the free draw at the counter, in LT, GT and EQ of CR0 if it records the free draw of those at the
counter, and advances the counter by one, whatever its Rc and OE; no other execution changes the counter, so that no
two executions of a run are given the same draw. The draws are constants of which nothing is known. The form, a
counter and two opaque functions of it, is the model's choice (log entries 7 and 16), and so is every clause of this
statement. -/
def Obligations.DrawsAreFresh : Prop :=
  ∀ (i : Instr) (s t : State), exec i s = .next t →
    (UndefinedDivide s i →
      t.draws = s.draws + 1 ∧ (∀ g, (footprint i).gpr = some g → t.readGpr g = Config.divUndefResult s.draws) ∧
      ((footprint i).cr = some 0 → ∀ n, n < 3 → t.cr.getMsbD n = (Config.divUndefOrder s.draws).getMsbD n)) ∧
    (¬ UndefinedDivide s i → t.draws = s.draws)

/-- addi: (rA|0) + SIMM into rD, nothing else (stated: R71). addi, encoded D-form with OPCD 14, completes from every state
with (rA|0) + sign-extended SIMM modulo 2^32 in rD, where rA = 0 is the constant 0; no flag, register or byte else
changes and the pc advances by 4. -/
def Obligations.AddImmediate : Prop :=
  ∀ (rD rA : Reg) (simm : BitVec 16) (s : State),
    (encode (.addi rD rA simm)).toNat = dValue 14 rD.val rA.val simm.toNat ∧
    let a : Int := if rA = 0 then 0 else (s.readGpr rA).toInt
    Completes (.addi rD rA simm) s { target := some (rD, BitVec.ofInt 32 (a + simm.toInt)) }

/-- addis: (rA|0) + SIMM * 65536 into rD, nothing else (stated: R72). addis, encoded D-form with OPCD 15, completes from
every state with (rA|0) + SIMM * 65536 modulo 2^32 in rD, where rA = 0 is the constant 0; no flag, register or byte
else changes and the pc advances by 4. -/
def Obligations.AddImmediateShifted : Prop :=
  ∀ (rD rA : Reg) (simm : BitVec 16) (s : State),
    (encode (.addis rD rA simm)).toNat = dValue 15 rD.val rA.val simm.toNat ∧
    let a : Nat := if rA = 0 then 0 else (s.readGpr rA).toNat
    Completes (.addis rD rA simm) s { target := some (rD, BitVec.ofNat 32 (a + simm.toNat * 65536)) }

/-- add, add., addo, addo.: (rA) + (rB) into rD (stated: R73). From every state the four variants complete with (rA) +
(rB) modulo 2^32 in rD; the overflow is that of the signed sum; CA is unchanged. The OE = 1 forms set or clear OV with
that overflow and set SO with it, never clear it; the Rc = 1 forms write CR0 with the signed comparison of the result
with zero and the new SO; nothing else changes, no exception is raised, and the pc advances by 4. -/
def Obligations.AddRegisters : Prop :=
  ∀ (rD rA rB : Reg) (s : State),
    EncodedXo (.add rD rA rB) (.addRc rD rA rB) (.addo rD rA rB) (.addoRc rD rA rB) rD.val rA.val rB.val 266 ∧
    let a := s.readGpr rA
    let b := s.readGpr rB
    CompletesOeRc (.add rD rA rB) (.addRc rD rA rB) (.addo rD rA rB) (.addoRc rD rA rB) s
      { target := some (rD, a + b) } (a + b) (sumOverflows a b false)

/-- subf, subf., subfo, subfo.: (rB) - (rA) into rD (stated: R74). From every state the four variants complete with ¬(rA)
+ (rB) + 1, that is (rB) - (rA) modulo 2^32, in rD; the overflow is that of the signed sum of the three addends; CA is
unchanged. The OE = 1 forms set or clear OV with that overflow and set SO with it, never clear it; the Rc = 1 forms
write CR0 with the signed comparison of the result with zero and the new SO; nothing else changes, no exception is
raised, and the pc advances by 4. -/
def Obligations.SubtractFrom : Prop :=
  ∀ (rD rA rB : Reg) (s : State),
    EncodedXo (.subf rD rA rB) (.subfRc rD rA rB) (.subfo rD rA rB) (.subfoRc rD rA rB) rD.val rA.val rB.val 40 ∧
    let a := s.readGpr rA
    let b := s.readGpr rB
    CompletesOeRc (.subf rD rA rB) (.subfRc rD rA rB) (.subfo rD rA rB) (.subfoRc rD rA rB) s
      { target := some (rD, b - a) } (b - a) (sumOverflows (~~~a) b true)

/-- addic and addic.: (rA) + SIMM into rD with CA, and CR0 for addic. (stated: R75, R76). addic (OPCD 12) and addic. (OPCD
13) complete from every state with (rA) + sign-extended SIMM modulo 2^32 in rD and CA the carry out of bit 0 of that
sum (rA = 0 is GPR[0]); addic. also writes CR0 with the signed comparison of the result with zero and the unchanged
SO; nothing else changes, no exception is raised, and the pc advances by 4. -/
def Obligations.AddImmediateCarrying : Prop :=
  ∀ (rD rA : Reg) (simm : BitVec 16) (s : State),
    (encode (.addic rD rA simm)).toNat = dValue 12 rD.val rA.val simm.toNat ∧
    (encode (.addicRc rD rA simm)).toNat = dValue 13 rD.val rA.val simm.toNat ∧
    let a := s.readGpr rA
    let r := BitVec.ofInt 32 (a.toInt + simm.toInt)
    CompletesRc (.addic rD rA simm) (.addicRc rD rA simm) s
      { target := some (rD, r), ca := some (carryOut a (BitVec.ofInt 32 simm.toInt) false) } r

/-- subfic: SIMM - (rA) into rD, with CA (stated: R77). subfic (OPCD 8) completes from every state with ¬(rA) +
sign-extended SIMM + 1, that is SIMM - (rA) modulo 2^32, in rD and CA the carry out of bit 0 of that sum of three
addends; nothing else changes, no exception is raised, and the pc advances by 4. -/
def Obligations.SubtractFromImmediateCarrying : Prop :=
  ∀ (rD rA : Reg) (simm : BitVec 16) (s : State),
    (encode (.subfic rD rA simm)).toNat = dValue 8 rD.val rA.val simm.toNat ∧
    let a := s.readGpr rA
    Completes (.subfic rD rA simm) s
      { target := some (rD, BitVec.ofInt 32 (simm.toInt - a.toInt)),
        ca := some (carryOut (~~~a) (BitVec.ofInt 32 simm.toInt) true) }

/-- addc, addc., addco, addco.: (rA) + (rB) into rD, with CA (stated: R78). From every state the four variants complete
with (rA) + (rB) modulo 2^32 in rD and CA the carry out of bit 0; the overflow is that of the signed sum. The OE = 1
forms set or clear OV with that overflow and set SO with it, never clear it; the Rc = 1 forms write CR0 with the
signed comparison of the result with zero and the new SO; nothing else changes, no exception is raised, and the pc
advances by 4. -/
def Obligations.AddCarrying : Prop :=
  ∀ (rD rA rB : Reg) (s : State),
    EncodedXo (.addc rD rA rB) (.addcRc rD rA rB) (.addco rD rA rB) (.addcoRc rD rA rB) rD.val rA.val rB.val 10 ∧
    let a := s.readGpr rA
    let b := s.readGpr rB
    CompletesOeRc (.addc rD rA rB) (.addcRc rD rA rB) (.addco rD rA rB) (.addcoRc rD rA rB) s
      { target := some (rD, a + b), ca := some (carryOut a b false) } (a + b) (sumOverflows a b false)

/-- subfc, subfc., subfco, subfco.: (rB) - (rA) into rD, with CA (stated: R79). From every state the four variants
complete with ¬(rA) + (rB) + 1, that is (rB) - (rA) modulo 2^32, in rD and CA the carry out of bit 0 of that sum; the
overflow is that of the signed sum. The OE = 1 forms set or clear OV with that overflow and set SO with it, never
clear it; the Rc = 1 forms write CR0 with the signed comparison of the result with zero and the new SO; nothing else
changes, no exception is raised, and the pc advances by 4. -/
def Obligations.SubtractFromCarrying : Prop :=
  ∀ (rD rA rB : Reg) (s : State),
    EncodedXo (.subfc rD rA rB) (.subfcRc rD rA rB) (.subfco rD rA rB) (.subfcoRc rD rA rB) rD.val rA.val rB.val 8 ∧
    let a := s.readGpr rA
    let b := s.readGpr rB
    CompletesOeRc (.subfc rD rA rB) (.subfcRc rD rA rB) (.subfco rD rA rB) (.subfcoRc rD rA rB) s
      { target := some (rD, b - a), ca := some (carryOut (~~~a) b true) } (b - a) (sumOverflows (~~~a) b true)

/-- adde, adde., addeo, addeo.: (rA) + (rB) + CA into rD, with CA (stated: R80). From every state the four variants
complete with (rA) + (rB) + XER[CA] modulo 2^32 in rD and CA the carry out of bit 0, where XER[CA] is read before the
instruction; the overflow is that of the signed sum. The OE = 1 forms set or clear OV with that overflow and set SO
with it, never clear it; the Rc = 1 forms write CR0 with the signed comparison of the result with zero and the new SO;
nothing else changes, no exception is raised, and the pc advances by 4. -/
def Obligations.AddExtended : Prop :=
  ∀ (rD rA rB : Reg) (s : State),
    EncodedXo (.adde rD rA rB) (.addeRc rD rA rB) (.addeo rD rA rB) (.addeoRc rD rA rB) rD.val rA.val rB.val 138 ∧
    let a := s.readGpr rA
    let b := s.readGpr rB
    let c := s.xer.getMsbD 2
    let r := BitVec.ofNat 32 (a.toNat + b.toNat + c.toNat)
    CompletesOeRc (.adde rD rA rB) (.addeRc rD rA rB) (.addeo rD rA rB) (.addeoRc rD rA rB) s
      { target := some (rD, r), ca := some (carryOut a b c) } r (sumOverflows a b c)

/-- subfe, subfe., subfeo, subfeo.: (rB) - (rA) - 1 + CA into rD, with CA (stated: R81). From every state the four
variants complete with ¬(rA) + (rB) + XER[CA], that is (rB) - (rA) - 1 + CA modulo 2^32, in rD and CA the carry out of
bit 0 of that sum; the overflow is that of the signed sum. The OE = 1 forms set or clear OV with that overflow and set
SO with it, never clear it; the Rc = 1 forms write CR0 with the signed comparison of the result with zero and the new
SO; nothing else changes, no exception is raised, and the pc advances by 4. -/
def Obligations.SubtractFromExtended : Prop :=
  ∀ (rD rA rB : Reg) (s : State),
    EncodedXo (.subfe rD rA rB) (.subfeRc rD rA rB) (.subfeo rD rA rB) (.subfeoRc rD rA rB) rD.val rA.val rB.val 136 ∧
    let a := s.readGpr rA
    let b := s.readGpr rB
    let c := s.xer.getMsbD 2
    let r := BitVec.ofInt 32 (b.toInt - a.toInt - 1 + c.toNat)
    CompletesOeRc (.subfe rD rA rB) (.subfeRc rD rA rB) (.subfeo rD rA rB) (.subfeoRc rD rA rB) s
      { target := some (rD, r), ca := some (carryOut (~~~a) b c) } r (sumOverflows (~~~a) b c)

/-- addme and subfme, four variants each: (rA) - 1 + CA, and -(rA) - 2 + CA, into rD, with CA (stated: R82, R83). From
every state the eight variants, encoded with a zero rB field, complete: addme with (rA) + XER[CA] + 0xFFFF_FFFF, that
is (rA) - 1 + CA modulo 2^32, in rD, and subfme with ¬(rA) + XER[CA] + 0xFFFF_FFFF, that is -(rA) - 2 + CA; CA is the
carry out of bit 0 of that sum; the overflow is that of the signed sum. The OE = 1 forms set or clear OV with that
overflow and set SO with it, never clear it; the Rc = 1 forms write CR0 with the signed comparison of the result with
zero and the new SO; nothing else changes, no exception is raised, and the pc advances by 4. -/
def Obligations.MinusOneExtended : Prop :=
  ∀ (rD rA : Reg) (s : State),
    EncodedXo (.addme rD rA) (.addmeRc rD rA) (.addmeo rD rA) (.addmeoRc rD rA) rD.val rA.val 0 234 ∧
    EncodedXo (.subfme rD rA) (.subfmeRc rD rA) (.subfmeo rD rA) (.subfmeoRc rD rA) rD.val rA.val 0 232 ∧
    let a := s.readGpr rA
    let c := s.xer.getMsbD 2
    let sum := BitVec.ofInt 32 (a.toInt - 1 + c.toNat)
    let difference := BitVec.ofInt 32 (-a.toInt - 2 + c.toNat)
    CompletesOeRc (.addme rD rA) (.addmeRc rD rA) (.addmeo rD rA) (.addmeoRc rD rA) s
      { target := some (rD, sum), ca := some (carryOut a 0xFFFFFFFF#32 c) } sum (sumOverflows a 0xFFFFFFFF#32 c) ∧
    CompletesOeRc (.subfme rD rA) (.subfmeRc rD rA) (.subfmeo rD rA) (.subfmeoRc rD rA) s
      { target := some (rD, difference), ca := some (carryOut (~~~a) 0xFFFFFFFF#32 c) } difference (sumOverflows (~~~a) 0xFFFFFFFF#32 c)

/-- addze and subfze, four variants each: (rA) + CA, and -(rA) - 1 + CA, into rD, with CA (stated: R84, R85). From every
state the eight variants, encoded with a zero rB field, complete: addze with (rA) + XER[CA] modulo 2^32 in rD, and
subfze with ¬(rA) + XER[CA], that is -(rA) - 1 + CA; CA is the carry out of bit 0 of that sum; the overflow is that of
the signed sum. The OE = 1 forms set or clear OV with that overflow and set SO with it, never clear it; the Rc = 1
forms write CR0 with the signed comparison of the result with zero and the new SO; nothing else changes, no exception
is raised, and the pc advances by 4. -/
def Obligations.ZeroExtended : Prop :=
  ∀ (rD rA : Reg) (s : State),
    EncodedXo (.addze rD rA) (.addzeRc rD rA) (.addzeo rD rA) (.addzeoRc rD rA) rD.val rA.val 0 202 ∧
    EncodedXo (.subfze rD rA) (.subfzeRc rD rA) (.subfzeo rD rA) (.subfzeoRc rD rA) rD.val rA.val 0 200 ∧
    let a := s.readGpr rA
    let c := s.xer.getMsbD 2
    let sum := BitVec.ofInt 32 (a.toInt + c.toNat)
    let difference := BitVec.ofInt 32 (-a.toInt - 1 + c.toNat)
    CompletesOeRc (.addze rD rA) (.addzeRc rD rA) (.addzeo rD rA) (.addzeoRc rD rA) s
      { target := some (rD, sum), ca := some (carryOut a 0#32 c) } sum (sumOverflows a 0#32 c) ∧
    CompletesOeRc (.subfze rD rA) (.subfzeRc rD rA) (.subfzeo rD rA) (.subfzeoRc rD rA) s
      { target := some (rD, difference), ca := some (carryOut (~~~a) 0#32 c) } difference (sumOverflows (~~~a) 0#32 c)

/-- neg, neg., nego, nego.: -(rA) into rD (stated: R86). From every state the four variants, encoded with a zero rB field,
complete with ¬(rA) + 1, that is -(rA) modulo 2^32, in rD; the overflow is that (rA) is 0x8000_0000; CA is unchanged.
The OE = 1 forms set or clear OV with that overflow and set SO with it, never clear it; the Rc = 1 forms write CR0
with the signed comparison of the result with zero and the new SO; nothing else changes, no exception is raised, and
the pc advances by 4. -/
def Obligations.Negate : Prop :=
  ∀ (rD rA : Reg) (s : State),
    EncodedXo (.neg rD rA) (.negRc rD rA) (.nego rD rA) (.negoRc rD rA) rD.val rA.val 0 104 ∧
    let a := s.readGpr rA
    let r := BitVec.ofInt 32 (-a.toInt)
    CompletesOeRc (.neg rD rA) (.negRc rD rA) (.nego rD rA) (.negoRc rD rA) s
      { target := some (rD, r) } r (decide (a = 0x80000000#32))

/-- What CA and OV mean after a subtraction: no borrow, and a difference out of range (derived: R17, R74, R77, R79, R81).
For every two words: the carry rule of subfc and subfic makes CA = 1 exactly when the minuend is not below the
subtrahend as unsigned numbers; that of subfe exactly when unsigned(b) + CA is above unsigned(a); and the overflow
rule is that the exact signed difference is outside the 32-bit range. These are the inferences R17 and R74 mark as
derived. -/
def Obligations.SubtractionFlags : Prop :=
  ∀ (a b : Word) (c : Bool),
    (carryOut (~~~a) b true = true ↔ a.toNat ≤ b.toNat) ∧
    (carryOut (~~~a) b c = true ↔ a.toNat < b.toNat + c.toNat) ∧
    sumOverflows (~~~a) b true = unrepresentable (b.toInt - a.toInt) ∧
    sumOverflows (~~~a) b c = unrepresentable (b.toInt - a.toInt - 1 + c.toNat) ∧
    ∀ (rD rA rB : Reg) (s t : State), exec (.subfco rD rA rB) s = .next t →
      t.xer.getMsbD 2 = decide ((s.readGpr rA).toNat ≤ (s.readGpr rB).toNat) ∧
      t.xer.getMsbD 1 = unrepresentable ((s.readGpr rB).toInt - (s.readGpr rA).toInt)

/-- addc then adde adds two-word numbers (derived: R78, R80, spec/95_test_vectors.md program P1). If addc places the sum
of two low words in rL and adde then places the sum of two high words in rH, rL being none of the high operands and
not rH, the two targets and CA hold the exact sum of the two-word numbers: CA * 2^64 + rH * 2^32 + rL. -/
def Obligations.ExtendedAddition : Prop :=
  ∀ (rL rA rB rH rX rY : Reg) (s : State), rL ≠ rX → rL ≠ rY → rL ≠ rH →
    ∃ t u, exec (.addc rL rA rB) s = .next t ∧ exec (.adde rH rX rY) t = .next u ∧
      (u.xer.getMsbD 2).toNat * 2 ^ 64 + (u.readGpr rH).toNat * 2 ^ 32 + (u.readGpr rL).toNat =
        ((s.readGpr rX).toNat + (s.readGpr rY).toNat) * 2 ^ 32 + ((s.readGpr rA).toNat + (s.readGpr rB).toNat)

/-- mulli: the low-order 32 bits of (rA) * SIMM into rD, nothing else (stated: R100). mulli (OPCD 7) completes from every
state with the low-order 32 bits of the exact signed product (rA) * sign-extended SIMM in rD; no flag, register or
byte else changes and the pc advances by 4. -/
def Obligations.MultiplyLowImmediate : Prop :=
  ∀ (rD rA : Reg) (simm : BitVec 16) (s : State),
    (encode (.mulli rD rA simm)).toNat = dValue 7 rD.val rA.val simm.toNat ∧
    Completes (.mulli rD rA simm) s
      { target := some (rD, BitVec.ofInt 32 ((s.readGpr rA).toInt * simm.toInt)) }

/-- mullw, mullw., mullwo, mullwo.: the low-order 32 bits of (rA) * (rB) into rD (stated: R101). From every state the four
variants complete with the product of (rA) and (rB) modulo 2^32 in rD; the overflow is that the exact signed product
is not representable in 32 bits; CA is unchanged. The OE = 1 forms set or clear OV with that overflow and set SO with
it, never clear it; the Rc = 1 forms write CR0 with the signed comparison of the result with zero and the new SO;
nothing else changes, no exception is raised, and the pc advances by 4. -/
def Obligations.MultiplyLow : Prop :=
  ∀ (rD rA rB : Reg) (s : State),
    EncodedXo (.mullw rD rA rB) (.mullwRc rD rA rB) (.mullwo rD rA rB) (.mullwoRc rD rA rB) rD.val rA.val rB.val 235 ∧
    let p : Int := (s.readGpr rA).toInt * (s.readGpr rB).toInt
    let r := BitVec.ofNat 32 ((s.readGpr rA).toNat * (s.readGpr rB).toNat)
    CompletesOeRc (.mullw rD rA rB) (.mullwRc rD rA rB) (.mullwo rD rA rB) (.mullwoRc rD rA rB) s
      { target := some (rD, r) } r (unrepresentable p)

/-- mulhw, mulhw., mulhwu, mulhwu.: the high-order 32 bits of the signed or unsigned 64-bit product into rD (stated: R102,
R103). From every state the four complete, encoded XO-form with bit 21 clear: mulhw with the high-order 32 bits of the
exact signed 64-bit product of (rA) and (rB), its floor by 2^32, in rD, mulhwu with those of the exact unsigned one;
with Rc = 1 CR0 is written with the signed comparison of that word with zero and SO; the XER never changes, nothing
else does, and the pc advances by 4. -/
def Obligations.MultiplyHigh : Prop :=
  ∀ (rD rA rB : Reg) (s : State),
    (encode (.mulhw rD rA rB)).toNat = xoValue rD.val rA.val rB.val 0 75 0 ∧
    (encode (.mulhwRc rD rA rB)).toNat = xoValue rD.val rA.val rB.val 0 75 1 ∧
    (encode (.mulhwu rD rA rB)).toNat = xoValue rD.val rA.val rB.val 0 11 0 ∧
    (encode (.mulhwuRc rD rA rB)).toNat = xoValue rD.val rA.val rB.val 0 11 1 ∧
    let high := BitVec.ofInt 32 ((s.readGpr rA).toInt * (s.readGpr rB).toInt / 2 ^ 32)
    let highUnsigned := BitVec.ofNat 32 ((s.readGpr rA).toNat * (s.readGpr rB).toNat / 2 ^ 32)
    CompletesRc (.mulhw rD rA rB) (.mulhwRc rD rA rB) s { target := some (rD, high) } high ∧
    CompletesRc (.mulhwu rD rA rB) (.mulhwuRc rD rA rB) s { target := some (rD, highUnsigned) } highUnsigned

/-- mullw and mulhw (or mulhwu) together give the full 64-bit product (derived: R101, R102, R103, R100). From every state,
the word mulhw places in its target times 2^32 plus the word mullw places in its target is the exact signed product of
the operands, the high word read as signed and the low one as unsigned; with mulhwu it is the exact unsigned product. -/
def Obligations.FullProduct : Prop :=
  ∀ (rL rH rA rB : Reg) (s : State),
    ∃ l h u, exec (.mullw rL rA rB) s = .next l ∧ exec (.mulhw rH rA rB) s = .next h ∧
      exec (.mulhwu rH rA rB) s = .next u ∧
      (h.readGpr rH).toInt * 2 ^ 32 + (l.readGpr rL).toNat = (s.readGpr rA).toInt * (s.readGpr rB).toInt ∧
      (u.readGpr rH).toNat * 2 ^ 32 + (l.readGpr rL).toNat = (s.readGpr rA).toNat * (s.readGpr rB).toNat

/-- divw, divw., divwo, divwo.: the signed quotient, rounded toward zero, into rD (stated: R104). From every state the
four variants complete. Where the divisor is not 0 and the operands are not -2^31 and -1, rD is the exact signed
quotient (rA) / (rB) rounded toward zero, the OE = 1 forms clear OV and leave SO, and the Rc = 1 forms write CR0 with
the signed comparison of the quotient with zero and SO. Otherwise the result is that of R106: rD, and with Rc = 1 LT,
GT and EQ, are undefined, the SO bit of CR0 is the new SO, and OE = 1 sets OV and SO. CA and all else are unchanged,
no exception is raised, and the pc advances by 4. (The undefined values, and the model's own counter of draws, are
left open here; DrawsAreFresh states them.) -/
def Obligations.DivideSigned : Prop :=
  ∀ (rD rA rB : Reg) (s : State),
    EncodedXo (.divw rD rA rB) (.divwRc rD rA rB) (.divwo rD rA rB) (.divwoRc rD rA rB) rD.val rA.val rB.val 491 ∧
    (UndefinedQuotient true (s.readGpr rA) (s.readGpr rB) →
      CompletesUndefined (.divw rD rA rB) (.divwRc rD rA rB) (.divwo rD rA rB) (.divwoRc rD rA rB) s rD) ∧
    (¬ UndefinedQuotient true (s.readGpr rA) (s.readGpr rB) →
      let r := BitVec.ofInt 32 (Int.tdiv (s.readGpr rA).toInt (s.readGpr rB).toInt)
      CompletesOeRc (.divw rD rA rB) (.divwRc rD rA rB) (.divwo rD rA rB) (.divwoRc rD rA rB) s { target := some (rD, r) } r false)

/-- divwu, divwu., divwuo, divwuo.: the unsigned quotient into rD (stated: R105). From every state the four variants
complete. Where the divisor is not 0, rD is the floor of (rA) / (rB) as unsigned numbers, the OE = 1 forms clear OV
and leave SO, and the Rc = 1 forms write CR0 with the signed comparison of the quotient with zero and SO. Where it is
0 the result is that of R106: rD, and with Rc = 1 LT, GT and EQ, are undefined, the SO bit of CR0 is the new SO, and
OE = 1 sets OV and SO. CA and all else are unchanged, no exception is raised, and the pc advances by 4. (The undefined
values, and the model's own counter of draws, are left open here; DrawsAreFresh states them.) -/
def Obligations.DivideUnsigned : Prop :=
  ∀ (rD rA rB : Reg) (s : State),
    EncodedXo (.divwu rD rA rB) (.divwuRc rD rA rB) (.divwuo rD rA rB) (.divwuoRc rD rA rB) rD.val rA.val rB.val 459 ∧
    (UndefinedQuotient false (s.readGpr rA) (s.readGpr rB) →
      CompletesUndefined (.divwu rD rA rB) (.divwuRc rD rA rB) (.divwuo rD rA rB) (.divwuoRc rD rA rB) s rD) ∧
    (¬ UndefinedQuotient false (s.readGpr rA) (s.readGpr rB) →
      let r := BitVec.ofNat 32 ((s.readGpr rA).toNat / (s.readGpr rB).toNat)
      CompletesOeRc (.divwu rD rA rB) (.divwuRc rD rA rB) (.divwuo rD rA rB) (.divwuoRc rD rA rB) s { target := some (rD, r) } r false)

/-- divw, mullw and subf give the remainder (derived: R104, R101, R74, spec/95_test_vectors.md program P5). Where the
quotient is defined, divw into rQ, mullw of rQ and the divisor into rP, and subf of rP from the dividend into rR leave
in rR the remainder of the truncated division, of the sign of the dividend, rQ and rP being neither operand. -/
def Obligations.RemainderIdiom : Prop :=
  ∀ (rQ rP rR rA rB : Reg) (s : State), rQ ≠ rA → rQ ≠ rB → rP ≠ rA →
    ¬ UndefinedQuotient true (s.readGpr rA) (s.readGpr rB) →
    ∃ t u v, exec (.divw rQ rA rB) s = .next t ∧ exec (.mullw rP rQ rB) t = .next u ∧
      exec (.subf rR rP rA) u = .next v ∧
      (v.readGpr rR).toInt = Int.tmod (s.readGpr rA).toInt (s.readGpr rB).toInt

/-- cmpi and cmp: the signed comparison into CR field crfD; a term with L = 1 stops by the model's choice (log entry 11)
(derived: R116, R117, R115, 30_encoding.md R61). With L = 0, cmpi (OPCD 11) and cmp (XO 0) complete from every state
with LT, GT, EQ of the signed comparison of (rA) with sign-extended SIMM or (rB), and a copy of XER[SO], in CR field
crfD; the other fields, the XER, every register and byte are unchanged and the pc advances by 4. With L = 1 they are
an invalid form (R61, R115); that exec of a term with L = 1, which comes from no word, answers the fault InvalidForm
with the word the encoder gives it is the model's DESIGN CHOICE of log entry 11 (CompareWithLInvalid says it of
words). -/
def Obligations.CompareSigned : Prop :=
  ∀ (crfD : CrIndex) (rA rB : Reg) (simm : BitVec 16) (s : State),
    (encode (.cmpi crfD false rA simm)).toNat = dValue 11 (4 * crfD.val) rA.val simm.toNat ∧
    (encode (.cmp crfD false rA rB)).toNat = xValue (4 * crfD.val) rA.val rB.val 0 0 ∧
    Completes (.cmpi crfD false rA simm) s
      { cr := some (crfD, orderOf (s.readGpr rA).toInt simm.toInt) } ∧
    Completes (.cmp crfD false rA rB) s
      { cr := some (crfD, orderOf (s.readGpr rA).toInt (s.readGpr rB).toInt) } ∧
    exec (.cmpi crfD true rA simm) s = .fault (.invalidForm s.pc (encode (.cmpi crfD true rA simm))) ∧
    exec (.cmp crfD true rA rB) s = .fault (.invalidForm s.pc (encode (.cmp crfD true rA rB)))

/-- cmpli and cmpl: the unsigned comparison into CR field crfD; a term with L = 1 stops by the model's choice (log entry
11) (derived: R118, R119, R115, 30_encoding.md R61). With L = 0, cmpli (OPCD 10) and cmpl (XO 32) complete from every
state with LT, GT, EQ of the unsigned comparison of (rA) with zero-extended UIMM or (rB), and a copy of XER[SO], in CR
field crfD; the other fields, the XER, every register and byte are unchanged and the pc advances by 4. With L = 1 they
are an invalid form (R61, R115); that exec of a term with L = 1, which comes from no word, answers the fault
InvalidForm with the word the encoder gives it is the model's DESIGN CHOICE of log entry 11 (CompareWithLInvalid says
it of words). -/
def Obligations.CompareUnsigned : Prop :=
  ∀ (crfD : CrIndex) (rA rB : Reg) (uimm : BitVec 16) (s : State),
    (encode (.cmpli crfD false rA uimm)).toNat = dValue 10 (4 * crfD.val) rA.val uimm.toNat ∧
    (encode (.cmpl crfD false rA rB)).toNat = xValue (4 * crfD.val) rA.val rB.val 32 0 ∧
    Completes (.cmpli crfD false rA uimm) s
      { cr := some (crfD, orderOf (s.readGpr rA).toNat uimm.toNat) } ∧
    Completes (.cmpl crfD false rA rB) s
      { cr := some (crfD, orderOf (s.readGpr rA).toNat (s.readGpr rB).toNat) } ∧
    exec (.cmpli crfD true rA uimm) s = .fault (.invalidForm s.pc (encode (.cmpli crfD true rA uimm))) ∧
    exec (.cmpl crfD true rA rB) s = .fault (.invalidForm s.pc (encode (.cmpl crfD true rA rB)))

/-- andi., andis., ori, oris, xori, xoris: bit by bit, with the immediate in one half of the word (stated: R126, R127,
R128, R129, R130, R131). Each completes from every state, encoded D-form with its own OPCD (28, 29, 24 to 27) and rS
in the first field, with in rA the bitwise AND, OR or XOR of (rS) and the immediate, whose bits are bits 16 to 31 of
the word for andi., ori and xori and bits 0 to 15 for the shifted forms, zeros elsewhere; andi. and andis. write CR0
with the signed comparison of the result with zero and SO; nothing else changes, the XER never, and the pc advances by
4. -/
def Obligations.LogicalImmediates : Prop :=
  ∀ (rA rS : Reg) (uimm : BitVec 16) (s : State),
    (encode (.andiRc rA rS uimm)).toNat = dValue 28 rS.val rA.val uimm.toNat ∧
    (encode (.andisRc rA rS uimm)).toNat = dValue 29 rS.val rA.val uimm.toNat ∧
    (encode (.ori rA rS uimm)).toNat = dValue 24 rS.val rA.val uimm.toNat ∧
    (encode (.oris rA rS uimm)).toNat = dValue 25 rS.val rA.val uimm.toNat ∧
    (encode (.xori rA rS uimm)).toNat = dValue 26 rS.val rA.val uimm.toNat ∧
    (encode (.xoris rA rS uimm)).toNat = dValue 27 rS.val rA.val uimm.toNat ∧
    let v := fun i => (s.readGpr rS).getMsbD i
    let low := fun i => decide (16 ≤ i) && uimm.getMsbD (i - 16)
    let high := fun i => decide (i < 16) && uimm.getMsbD i
    CompletesBitsRecording (.andiRc rA rS uimm) s rA (fun i => v i && low i) ∧
    CompletesBitsRecording (.andisRc rA rS uimm) s rA (fun i => v i && high i) ∧
    CompletesBits (.ori rA rS uimm) s rA (fun i => v i || low i) ∧
    CompletesBits (.oris rA rS uimm) s rA (fun i => v i || high i) ∧
    CompletesBits (.xori rA rS uimm) s rA (fun i => v i ^^ low i) ∧
    CompletesBits (.xoris rA rS uimm) s rA (fun i => v i ^^ high i)

/-- and, or, xor, nand, nor, eqv, andc, orc, plain and record: bit by bit into rA (stated: R132, R133, R134, R135, R136,
R137, R138, R139). Each of the sixteen completes from every state, encoded X-form with its own XO and rS in the first
field, with in rA the bitwise operation its name says of (rS) and (rB) (andc and orc complement (rB)); with Rc = 1 CR0
is written with the signed comparison of the result with zero and SO; nothing else changes, the XER never, and the pc
advances by 4. -/
def Obligations.LogicalRegisters : Prop :=
  ∀ (rA rS rB : Reg) (s : State),
    EncodedX (.and rA rS rB) (.andRc rA rS rB) rS.val rA.val rB.val 28 ∧
    EncodedX (.or rA rS rB) (.orRc rA rS rB) rS.val rA.val rB.val 444 ∧
    EncodedX (.xor rA rS rB) (.xorRc rA rS rB) rS.val rA.val rB.val 316 ∧
    EncodedX (.nand rA rS rB) (.nandRc rA rS rB) rS.val rA.val rB.val 476 ∧
    EncodedX (.nor rA rS rB) (.norRc rA rS rB) rS.val rA.val rB.val 124 ∧
    EncodedX (.eqv rA rS rB) (.eqvRc rA rS rB) rS.val rA.val rB.val 284 ∧
    EncodedX (.andc rA rS rB) (.andcRc rA rS rB) rS.val rA.val rB.val 60 ∧
    EncodedX (.orc rA rS rB) (.orcRc rA rS rB) rS.val rA.val rB.val 412 ∧
    let v := fun i => (s.readGpr rS).getMsbD i
    let w := fun i => (s.readGpr rB).getMsbD i
    CompletesBitsRc (.and rA rS rB) (.andRc rA rS rB) s rA (fun i => v i && w i) ∧
    CompletesBitsRc (.or rA rS rB) (.orRc rA rS rB) s rA (fun i => v i || w i) ∧
    CompletesBitsRc (.xor rA rS rB) (.xorRc rA rS rB) s rA (fun i => v i ^^ w i) ∧
    CompletesBitsRc (.nand rA rS rB) (.nandRc rA rS rB) s rA (fun i => !(v i && w i)) ∧
    CompletesBitsRc (.nor rA rS rB) (.norRc rA rS rB) s rA (fun i => !(v i || w i)) ∧
    CompletesBitsRc (.eqv rA rS rB) (.eqvRc rA rS rB) s rA (fun i => !(v i ^^ w i)) ∧
    CompletesBitsRc (.andc rA rS rB) (.andcRc rA rS rB) s rA (fun i => v i && !w i) ∧
    CompletesBitsRc (.orc rA rS rB) (.orcRc rA rS rB) s rA (fun i => v i || !w i)

/-- extsb, extsb., extsh, extsh.: the low byte or half word of rS, sign-extended, into rA (stated: R140, R141). Each
completes from every state, encoded X-form with a zero rB field, with the low-order eight (16) bits of rS in the
low-order bits of rA and bit 24 (16) of rS in all the others; with Rc = 1 CR0 is written with the signed comparison of
the result with zero and SO; nothing else changes, the XER never, and the pc advances by 4. -/
def Obligations.ExtendSign : Prop :=
  ∀ (rA rS : Reg) (s : State),
    EncodedX (.extsb rA rS) (.extsbRc rA rS) rS.val rA.val 0 954 ∧
    EncodedX (.extsh rA rS) (.extshRc rA rS) rS.val rA.val 0 922 ∧
    CompletesBitsRc (.extsb rA rS) (.extsbRc rA rS) s rA
      (fun i => (s.readGpr rS).getMsbD (if i < 24 then 24 else i)) ∧
    CompletesBitsRc (.extsh rA rS) (.extshRc rA rS) s rA
      (fun i => (s.readGpr rS).getMsbD (if i < 16 then 16 else i))

/-- cntlzw and cntlzw.: the number of consecutive zero bits from bit 0 into rA (stated: R142). From every state both
variants complete, encoded X-form with XO 26 and a zero rB field, with in rA the number n, 0 to 32, such that the
first n bits of rS from bit 0 are 0 and bit n, if there is one, is 1; cntlzw. writes CR0 with the signed comparison of
n with zero and SO, so LT is 0; nothing else changes, the XER never, and the pc advances by 4. -/
def Obligations.CountLeadingZeros : Prop :=
  ∀ (rA rS : Reg) (s : State),
    EncodedX (.cntlzw rA rS) (.cntlzwRc rA rS) rS.val rA.val 0 26 ∧
    ∃ n : Nat, n ≤ 32 ∧ (∀ i, i < n → (s.readGpr rS).getMsbD i = false) ∧
      (n < 32 → (s.readGpr rS).getMsbD n = true) ∧ (signOrder (BitVec.ofNat 32 n)).1 = false ∧
      CompletesRc (.cntlzw rA rS) (.cntlzwRc rA rS) s { target := some (rA, BitVec.ofNat 32 n) } (BitVec.ofNat 32 n)

/-- The mask has 1 bits from mb through me, wrapping, and is never all zero (stated: R150). For all mb and me, 0 to 31,
bit i of MASK(mb, me) is 1 exactly for mb ≤ i ≤ me if mb ≤ me, and exactly for i ≥ mb or i ≤ me otherwise; as a number
it is the AND (or, when it wraps, the OR) of all ones shifted right by mb and left by 31 - me; and it is never zero. -/
def Obligations.MaskBits : Prop :=
  ∀ mb me : BitPos,
    HasBits (mask mb me) (fun i => inMask mb me i) ∧ mask mb me ≠ 0 ∧
    mask mb me =
      (if mb ≤ me then BitVec.ofNat 32 (0xFFFFFFFF / 2 ^ mb.val) &&& BitVec.ofNat 32 (0xFFFFFFFF * 2 ^ (31 - me.val))
        else BitVec.ofNat 32 (0xFFFFFFFF / 2 ^ mb.val) ||| BitVec.ofNat 32 (0xFFFFFFFF * 2 ^ (31 - me.val)))

/-- Bit i of a word rotated left by n is its bit (i + n) mod 32, and rotating right is rotating left by 32 - n (stated:
R151). For every word and every count n, 0 to 31, bit i of ROTL32 of it is its bit (i + n) mod 32; as a number it is
(v * 2^n + v / 2^(32-n)) mod 2^32; and rotating left by 32 - n after rotating left by n gives the word back. -/
def Obligations.RotateLeft : Prop :=
  ∀ (v : Word) (n : BitPos),
    HasBits (rotl32 v n.val) (fun i => v.getMsbD ((i + n.val) % 32)) ∧
    (rotl32 v n.val).toNat = (v.toNat * 2 ^ n.val + v.toNat / 2 ^ (32 - n.val)) % 2 ^ 32 ∧
    rotl32 (rotl32 v n.val) ((32 - n.val) % 32) = v

/-- rlwinm and rlwnm, plain and record: rotate left, AND with the mask, into rA (stated: R153, R154). The four complete
from every state, encoded M-form with OPCD 21 (SH in bits 16 to 20) and 23 (rB there): bit i of the result in rA is
bit (i + n) mod 32 of rS inside the mask from MB through ME and 0 outside it, where n is SH or the low-order five bits
of rB; with Rc = 1 CR0 is written with the signed comparison of the result with zero and SO; nothing else changes, the
XER never, and the pc advances by 4. -/
def Obligations.RotateAndMask : Prop :=
  ∀ (rA rS rB : Reg) (sh mb me : BitPos) (s : State),
    EncodedM (.rlwinm rA rS sh mb me) (.rlwinmRc rA rS sh mb me) 21 rS.val rA.val sh.val mb.val me.val ∧
    EncodedM (.rlwnm rA rS rB mb me) (.rlwnmRc rA rS rB mb me) 23 rS.val rA.val rB.val mb.val me.val ∧
    CompletesBitsRc (.rlwinm rA rS sh mb me) (.rlwinmRc rA rS sh mb me) s rA
      (fun i => (s.readGpr rS).getMsbD ((i + sh.val) % 32) && inMask mb me i) ∧
    CompletesBitsRc (.rlwnm rA rS rB mb me) (.rlwnmRc rA rS rB mb me) s rA
      (fun i => (s.readGpr rS).getMsbD ((i + (s.readGpr rB).toNat % 32) % 32) && inMask mb me i)

/-- rlwimi and rlwimi.: rotate left and insert into rA under the mask (stated: R155). Both complete from every state,
encoded M-form with OPCD 20: bit i of the result in rA is bit (i + SH) mod 32 of rS inside the mask from MB through
ME, and the old bit i of rA outside it; rlwimi. writes CR0 with the signed comparison of the merged word with zero and
SO; nothing else changes, the XER never, and the pc advances by 4. -/
def Obligations.RotateAndInsert : Prop :=
  ∀ (rA rS : Reg) (sh mb me : BitPos) (s : State),
    EncodedM (.rlwimi rA rS sh mb me) (.rlwimiRc rA rS sh mb me) 20 rS.val rA.val sh.val mb.val me.val ∧
    CompletesBitsRc (.rlwimi rA rS sh mb me) (.rlwimiRc rA rS sh mb me) s rA
      (fun i => if inMask mb me i then (s.readGpr rS).getMsbD ((i + sh.val) % 32) else (s.readGpr rA).getMsbD i)

/-- slw, slw., srw, srw.: shift by the low six bits of rB, zeros supplied (stated: R161, R162). The four complete from
every state, encoded X-form with XO 24 and 536: with n the low-order six bits of rB, slw places (rS) * 2^n modulo 2^32
and srw the floor of unsigned (rS) / 2^n in rA, 0 in both for n of 32 or more; with Rc = 1 CR0 is written with the
signed comparison of the result with zero and SO; nothing else changes, the XER never, and the pc advances by 4. -/
def Obligations.LogicalShifts : Prop :=
  ∀ (rA rS rB : Reg) (s : State),
    EncodedX (.slw rA rS rB) (.slwRc rA rS rB) rS.val rA.val rB.val 24 ∧
    EncodedX (.srw rA rS rB) (.srwRc rA rS rB) rS.val rA.val rB.val 536 ∧
    let v := (s.readGpr rS).toNat
    let n := (s.readGpr rB).toNat % 64
    let left := BitVec.ofNat 32 (v * 2 ^ n)
    let right := BitVec.ofNat 32 (v / 2 ^ n)
    CompletesRc (.slw rA rS rB) (.slwRc rA rS rB) s { target := some (rA, left) } left ∧
    CompletesRc (.srw rA rS rB) (.srwRc rA rS rB) s { target := some (rA, right) } right ∧
    (32 ≤ n → left = 0 ∧ right = 0)

/-- srawi, srawi., sraw, sraw.: the algebraic right shift by SH or by the low six bits of rB into rA, with CA (stated:
R163, R164). The four complete from every state, encoded X-form with XO 824 (SH in the rB field) and 792. srawi places
the floor of signed (rS) / 2^SH in rA and sets CA exactly when (rS) is negative and a 1 bit was shifted out. sraw,
with n the low-order six bits of rB, does the same with n below 32; for n of 32 or more the result is 32 copies of the
sign and CA is the sign. With Rc = 1 CR0 is written with the signed comparison of the result with zero and SO; OV, SO
and all else are unchanged, and the pc advances by 4. -/
def Obligations.ShiftRightAlgebraic : Prop :=
  ∀ (rA rS rB : Reg) (sh : BitPos) (s : State),
    EncodedX (.srawi rA rS sh) (.srawiRc rA rS sh) rS.val rA.val sh.val 824 ∧
    EncodedX (.sraw rA rS rB) (.srawRc rA rS rB) rS.val rA.val rB.val 792 ∧
    let v := s.readGpr rS
    let n := (s.readGpr rB).toNat % 64
    let r := BitVec.ofInt 32 (v.toInt / 2 ^ sh.val)
    let lost := v.getMsbD 0 && decide (v.toNat % 2 ^ sh.val ≠ 0)
    let rn : Word :=
      if n < 32 then BitVec.ofInt 32 (v.toInt / 2 ^ n) else if v.getMsbD 0 then 0xFFFFFFFF else 0
    let lostN := if n < 32 then v.getMsbD 0 && decide (v.toNat % 2 ^ n ≠ 0) else v.getMsbD 0
    CompletesRc (.srawi rA rS sh) (.srawiRc rA rS sh) s { target := some (rA, r), ca := some lost } r ∧
    CompletesRc (.sraw rA rS rB) (.srawRc rA rS rB) s { target := some (rA, rn), ca := some lostN } rn

/-- An algebraic right shift followed by addze divides by 2^n, rounding toward zero (derived: R84, R160, R163, R164). For
every word and every count, srawi (or sraw, at every count from 0 to 63) followed by addze of its result leaves in the
target the exact quotient of the signed word by 2^n rounded toward zero: what divw would give where 2^n is a divisor
it can hold. -/
def Obligations.ShiftDivideIdiom : Prop :=
  ∀ (rD rA rS rB : Reg) (sh : BitPos) (s : State),
    (∃ t u, exec (.srawi rA rS sh) s = .next t ∧ exec (.addze rD rA) t = .next u ∧
      (u.readGpr rD).toInt = Int.tdiv (s.readGpr rS).toInt (2 ^ sh.val)) ∧
    ∃ t u, exec (.sraw rA rS rB) s = .next t ∧ exec (.addze rD rA) t = .next u ∧
      (u.readGpr rD).toInt = Int.tdiv (s.readGpr rS).toInt (2 ^ ((s.readGpr rB).toNat % 64))

/-- sc raises the system call exception, on every execution and alone of all instructions, and the run is over (stated:
R52, R170, R183). exec of sc, the one word 0x4400_0002, is from every state the outcome Exception(SystemCall, at = pc,
next = pc + 4), which carries no next state, and so is the step of a running machine that holds that word; no other
instruction raises SystemCall. -/
def Obligations.SystemCall : Prop :=
  (encode .sc).toNat = 0x44000002 ∧
  (∀ s : State,
    let e : ExceptionRecord := { kind := .systemCall, raisedAt := s.pc, next := s.pc + 4 }
    exec .sc s = .fault (.exception e) ∧
    (s.Running → s.HoldsWord 0x44000002 → step s = .fault (.exception e))) ∧
  ∀ (i : Instr) (s : State) (e : ExceptionRecord),
    exec i s = .fault (.exception e) → e.kind = .systemCall → i = .sc

/-- The trap condition: TO selects signed and unsigned comparisons and equality (stated: R171). For every TO and operands,
TRAPCOND holds exactly when TO bit 0 is set and a < b signed, bit 1 and a > b signed, bit 2 and a = b, bit 3 and a < b
unsigned, or bit 4 and a > b unsigned; TO = 0 never traps and TO = 31 always does. -/
def Obligations.TrapCondition : Prop :=
  ∀ (trapOn : BitVec 5) (a b : Word),
    (trapCondition trapOn a b = true ↔ TrapHolds trapOn a b) ∧
    trapCondition 0 a b = false ∧ trapCondition 31 a b = true

/-- twi and tw raise the program exception where their condition holds, and else only advance the pc (stated: R172, R173).
twi (OPCD 3) and tw (XO 4), with every TO and operands: where the trap condition between (rA) and sign-extended SIMM,
or (rB), holds, exec is from every state the outcome Exception(Program(Trap), at = pc, next = pc), which carries no
next state; where it does not hold, the instruction completes and changes nothing but the pc, which advances by 4. -/
def Obligations.TrapInstructions : Prop :=
  ∀ (trapOn : BitVec 5) (rA rB : Reg) (simm : BitVec 16) (s : State),
    (encode (.twi trapOn rA simm)).toNat = dValue 3 trapOn.toNat rA.val simm.toNat ∧
    (encode (.tw trapOn rA rB)).toNat = xValue trapOn.toNat rA.val rB.val 4 0 ∧
    let e : ExceptionRecord := { kind := .programTrap, raisedAt := s.pc, next := s.pc }
    (TrapHolds trapOn (s.readGpr rA) (BitVec.ofInt 32 simm.toInt) →
      exec (.twi trapOn rA simm) s = .fault (.exception e)) ∧
    (¬ TrapHolds trapOn (s.readGpr rA) (BitVec.ofInt 32 simm.toInt) → Completes (.twi trapOn rA simm) s {}) ∧
    (TrapHolds trapOn (s.readGpr rA) (s.readGpr rB) → exec (.tw trapOn rA rB) s = .fault (.exception e)) ∧
    (¬ TrapHolds trapOn (s.readGpr rA) (s.readGpr rB) → Completes (.tw trapOn rA rB) s {})

/-- A step that traps is itself the outcome Exception(Program(Trap)): nothing is written and the run is over (derived:
R21, R180, R184). The step of a running machine that holds the word of a twi or tw is the outcome
Exception(Program(Trap), at = pc, next = pc), with no next state, exactly where the trap condition holds. -/
def Obligations.TrapTaken : Prop :=
  ∀ (trapOn : BitVec 5) (rA rB : Reg) (simm : BitVec 16) (s : State), s.Running →
    let e : ExceptionRecord := { kind := .programTrap, raisedAt := s.pc, next := s.pc }
    (s.HoldsWord (encode (.twi trapOn rA simm)) →
      (step s = .fault (.exception e) ↔ TrapHolds trapOn (s.readGpr rA) (BitVec.ofInt 32 simm.toInt))) ∧
    (s.HoldsWord (encode (.tw trapOn rA rB)) →
      (step s = .fault (.exception e) ↔ TrapHolds trapOn (s.readGpr rA) (s.readGpr rB)))

/-- The floating-point gate: with MSR[FP] = 0 the floating-point unavailable exception is taken (derived: R18, R186,
60_exceptions.md R181). The gate that R186 puts before any floating-point instruction leaves the state alone where
MSR[FP] (bit 18, general knowledge K17) is 1, and otherwise is the outcome Exception(FPUnavailable, at = pc, next =
pc), whose vector offset is 0x00800. No instruction in scope is a floating-point instruction, so no meaning calls it
(log entry 14). -/
def Obligations.FloatingPointGate : Prop :=
  (∀ s : State, s.msr.getMsbD 18 = true → s.floatingPointGate = .next s) ∧
  (∀ s : State, s.msr.getMsbD 18 = false →
    s.floatingPointGate = .fault (.exception { kind := .fpUnavailable, raisedAt := s.pc, next := s.pc })) ∧
  ExceptionKind.fpUnavailable.vectorOffset = 0x00800
end

