-- ==== Sys2Proof/Laws/Bits.lean ====
section
/-! SUPPORT. Bits of the XER and the CR after they are written, and the arithmetic of the flags. -/

namespace Sys2Proof.Machine

/-- The single bit of weight `2 ^ (31 - i)`. -/
theorem getMsbD_single (i j : Nat) (hi : i < 32) (hj : j < 32) :
    (0x80000000#32 >>> i).getMsbD j = decide (j = i) := by
  have h : (0x80000000#32) = BitVec.twoPow 32 31 := by decide
  rw [h]
  simp only [BitVec.getMsbD, BitVec.getLsbD_ushiftRight, BitVec.getLsbD_twoPow]
  simp only [hj, decide_true, Bool.true_and]
  by_cases hij : j = i
  · subst hij; simp; omega
  · simp [hij]; omega

/-- A bit of a word with one bit put. -/
theorem getMsbD_putBit (w : Word) (i j : Nat) (b : Bool) (hi : i < 32) (hj : j < 32) :
    (putBit w i b).getMsbD j = if j = i then b else w.getMsbD j := by
  have hs := getMsbD_single i j hi hj
  unfold putBit
  by_cases h : j = i
  · subst h
    cases b <;> simp [BitVec.getMsbD_or, BitVec.getMsbD_and, BitVec.getMsbD_not, hs, hj]
  · rw [decide_eq_false h] at hs
    cases b <;> simp only [BitVec.getMsbD_or, BitVec.getMsbD_and, BitVec.getMsbD_not, hs, h, hj, decide_true,
      Bool.or_false, Bool.not_false, Bool.and_true, Bool.false_eq_true, if_true, if_false]

/-- The XER with CA written. -/
theorem getMsbD_withCa (x : Word) (c : Bool) (i : Nat) (hi : i < 32) :
    (withCa x c).getMsbD i = if i = 2 then c else x.getMsbD i :=
  getMsbD_putBit x 2 i c (by omega) hi

/-- The XER after the overflow rule. -/
theorem getMsbD_withOverflow (x : Word) (v : Bool) (i : Nat) (hi : i < 32) :
    (withOverflow x v).getMsbD i = if i = 0 then x.getMsbD 0 || v else if i = 1 then v else x.getMsbD i := by
  rw [withOverflow, getMsbD_putBit _ _ _ _ (by omega) hi, getMsbD_putBit _ _ _ _ (by omega) hi]

/-- A bit of the CR with one field replaced: field k is bits 4k to 4k+3. -/
theorem getMsbD_withCrField (cr : Word) (k : CrIndex) (v : BitVec 4) (i : Nat) (hi : i < 32) :
    (withCrField cr k v).getMsbD i = if i / 4 = k.val then v.getMsbD (i % 4) else cr.getMsbD i := by
  have h15 : ∀ n, (0xF#32).getLsbD n = decide (n < 4) := by
    intro n
    by_cases hn : n < 32
    · interval_cases n <;> rfl
    · rw [BitVec.getLsbD_of_ge _ _ (by omega)]; simp; omega
  have hk := k.isLt
  unfold withCrField
  simp only [BitVec.getMsbD_or, BitVec.getMsbD_and, BitVec.getMsbD_not]
  simp only [BitVec.getMsbD, BitVec.getLsbD_shiftLeft, BitVec.getLsbD_setWidth, BitVec.zeroExtend,
    h15, hi, decide_true, Bool.true_and]
  by_cases h : i / 4 = k.val
  · have e : 32 - 1 - i - (28 - 4 * k.val) = 3 - i % 4 := by omega
    have h1 : 32 - 1 - i < 32 := by omega
    have h2 : ¬ 32 - 1 - i < 28 - 4 * k.val := by omega
    have h3 : i % 4 < 4 := by omega
    have h4 : 3 - i % 4 < 4 := by omega
    have h5 : 3 - i % 4 < 32 := by omega
    have h6 : 4 - 1 - i % 4 = 3 - i % 4 := by omega
    simp only [e, h, h1, h2, h3, h4, h5, h6, decide_true, decide_false, Bool.not_false, Bool.not_true, Bool.and_true,
      Bool.true_and, Bool.and_false, Bool.false_or, if_true]
  · by_cases h2 : 32 - 1 - i < 28 - 4 * k.val
    · simp [h, h2]
    · have h4 : ¬ 32 - 1 - i - (28 - 4 * k.val) < 4 := by omega
      have h5 : v.getLsbD (32 - 1 - i - (28 - 4 * k.val)) = false := BitVec.getLsbD_of_ge _ _ (by omega)
      simp only [h, h2, h4, h5, decide_false, Bool.not_false, Bool.and_true, Bool.and_false, Bool.or_false,
        if_false]

/-- The three order bits, from the left. -/
theorem getMsbD_orderBits (lt gt : Bool) (i : Nat) (hi : i < 3) :
    (orderBits lt gt).getMsbD i = if i = 0 then lt else if i = 1 then !lt && gt else !lt && !gt := by
  interval_cases i <;> cases lt <;> cases gt <;> rfl

/-- The four bits of a field: the three order bits, then SO. -/
theorem getMsbD_field (o : BitVec 3) (so : Bool) (i : Nat) (hi : i < 4) :
    (o ++ BitVec.ofBool so).getMsbD i = if i < 3 then o.getMsbD i else so := by
  rw [BitVec.getMsbD_append]
  by_cases h : i < 3
  · simp [h]
  · have : i = 3 := by omega
    subst this; cases so <;> rfl

/-- The value of the sum of three addends. -/
theorem sum32_toNat (a b : Word) (c : Bool) : (sum32 a b c).toNat = (a.toNat + b.toNat + c.toNat) % 2 ^ 32 := by
  cases c <;> simp [sum32, BitVec.toNat_add]

/-- The one's complement as a natural number. -/
theorem not_toNat (a : Word) : (~~~a).toNat = 2 ^ 32 - 1 - a.toNat := BitVec.toNat_not

/-- The one's complement as a signed number. -/
theorem not_toInt (a : Word) : (~~~a).toInt = -a.toInt - 1 := by
  have := a.isLt
  simp only [BitVec.toInt_eq_toNat_cond, BitVec.toNat_not]
  split <;> split <;> omega

/-- `outsideInt32` says what it is called. -/
theorem outsideInt32_iff (n : Int) : outsideInt32 n = true ↔ n < -2 ^ 31 ∨ 2 ^ 31 ≤ n := by
  simp [outsideInt32]; omega

end Sys2Proof.Machine
end

