-- ==== Sys2Proof/Laws/State.lean ====
section
/-! SUPPORT. Each field after each update of the state. -/

namespace Sys2Proof.Machine

@[simp] theorem writeGpr_gpr (s : State) (r : Reg) (v : Word) : (s.writeGpr r v).gpr = s.gpr.set r v := rfl
@[simp] theorem writeGpr_pc (s : State) (r : Reg) (v : Word) : (s.writeGpr r v).pc = s.pc := rfl
@[simp] theorem writeGpr_cr (s : State) (r : Reg) (v : Word) : (s.writeGpr r v).cr = s.cr := rfl
@[simp] theorem writeGpr_xer (s : State) (r : Reg) (v : Word) : (s.writeGpr r v).xer = s.xer := rfl
@[simp] theorem writeGpr_msr (s : State) (r : Reg) (v : Word) : (s.writeGpr r v).msr = s.msr := rfl
@[simp] theorem writeGpr_mem (s : State) (r : Reg) (v : Word) : (s.writeGpr r v).mem = s.mem := rfl
@[simp] theorem writeGpr_endPc (s : State) (r : Reg) (v : Word) : (s.writeGpr r v).endPc = s.endPc := rfl
@[simp] theorem writeGpr_draws (s : State) (r : Reg) (v : Word) : (s.writeGpr r v).draws = s.draws := rfl

@[simp] theorem setPc_gpr (s : State) (v : Word) : (s.setPc v).gpr = s.gpr := rfl
@[simp] theorem setPc_pc (s : State) (v : Word) : (s.setPc v).pc = v := rfl
@[simp] theorem setPc_cr (s : State) (v : Word) : (s.setPc v).cr = s.cr := rfl
@[simp] theorem setPc_xer (s : State) (v : Word) : (s.setPc v).xer = s.xer := rfl
@[simp] theorem setPc_msr (s : State) (v : Word) : (s.setPc v).msr = s.msr := rfl
@[simp] theorem setPc_mem (s : State) (v : Word) : (s.setPc v).mem = s.mem := rfl
@[simp] theorem setPc_endPc (s : State) (v : Word) : (s.setPc v).endPc = s.endPc := rfl
@[simp] theorem setPc_draws (s : State) (v : Word) : (s.setPc v).draws = s.draws := rfl

@[simp] theorem advancePc_gpr (s : State) : (s.advancePc).gpr = s.gpr := rfl
@[simp] theorem advancePc_pc (s : State) : (s.advancePc).pc = s.pc + 4 := rfl
@[simp] theorem advancePc_cr (s : State) : (s.advancePc).cr = s.cr := rfl
@[simp] theorem advancePc_xer (s : State) : (s.advancePc).xer = s.xer := rfl
@[simp] theorem advancePc_msr (s : State) : (s.advancePc).msr = s.msr := rfl
@[simp] theorem advancePc_mem (s : State) : (s.advancePc).mem = s.mem := rfl
@[simp] theorem advancePc_endPc (s : State) : (s.advancePc).endPc = s.endPc := rfl
@[simp] theorem advancePc_draws (s : State) : (s.advancePc).draws = s.draws := rfl

@[simp] theorem setCr_gpr (s : State) (v : Word) : (s.setCr v).gpr = s.gpr := rfl
@[simp] theorem setCr_pc (s : State) (v : Word) : (s.setCr v).pc = s.pc := rfl
@[simp] theorem setCr_cr (s : State) (v : Word) : (s.setCr v).cr = v := rfl
@[simp] theorem setCr_xer (s : State) (v : Word) : (s.setCr v).xer = s.xer := rfl
@[simp] theorem setCr_msr (s : State) (v : Word) : (s.setCr v).msr = s.msr := rfl
@[simp] theorem setCr_mem (s : State) (v : Word) : (s.setCr v).mem = s.mem := rfl
@[simp] theorem setCr_endPc (s : State) (v : Word) : (s.setCr v).endPc = s.endPc := rfl
@[simp] theorem setCr_draws (s : State) (v : Word) : (s.setCr v).draws = s.draws := rfl

@[simp] theorem setXer_gpr (s : State) (v : Word) : (s.setXer v).gpr = s.gpr := rfl
@[simp] theorem setXer_pc (s : State) (v : Word) : (s.setXer v).pc = s.pc := rfl
@[simp] theorem setXer_cr (s : State) (v : Word) : (s.setXer v).cr = s.cr := rfl
@[simp] theorem setXer_xer (s : State) (v : Word) : (s.setXer v).xer = v := rfl
@[simp] theorem setXer_msr (s : State) (v : Word) : (s.setXer v).msr = s.msr := rfl
@[simp] theorem setXer_mem (s : State) (v : Word) : (s.setXer v).mem = s.mem := rfl
@[simp] theorem setXer_endPc (s : State) (v : Word) : (s.setXer v).endPc = s.endPc := rfl
@[simp] theorem setXer_draws (s : State) (v : Word) : (s.setXer v).draws = s.draws := rfl

@[simp] theorem countDraw_gpr (s : State) : (s.countDraw).gpr = s.gpr := rfl
@[simp] theorem countDraw_pc (s : State) : (s.countDraw).pc = s.pc := rfl
@[simp] theorem countDraw_cr (s : State) : (s.countDraw).cr = s.cr := rfl
@[simp] theorem countDraw_xer (s : State) : (s.countDraw).xer = s.xer := rfl
@[simp] theorem countDraw_msr (s : State) : (s.countDraw).msr = s.msr := rfl
@[simp] theorem countDraw_mem (s : State) : (s.countDraw).mem = s.mem := rfl
@[simp] theorem countDraw_endPc (s : State) : (s.countDraw).endPc = s.endPc := rfl
@[simp] theorem countDraw_draws (s : State) : (s.countDraw).draws = s.draws + 1 := rfl

@[simp] theorem exceptionRecord_kind (s : State) (k : ExceptionKind) : (s.exceptionRecord k).kind = k := rfl
@[simp] theorem exceptionRecord_raisedAt (s : State) (k : ExceptionKind) : (s.exceptionRecord k).raisedAt = s.pc := rfl
@[simp] theorem exceptionRecord_next_systemCall (s : State) : (s.exceptionRecord .systemCall).next = s.pc + 4 := rfl
@[simp] theorem exceptionRecord_next_programTrap (s : State) : (s.exceptionRecord .programTrap).next = s.pc := rfl

/-- WHAT `takeException` DOES: it is the outcome, and there is no next state. -/
theorem takeException_eq (s : State) (k : ExceptionKind) : s.takeException k = .fault (.exception (s.exceptionRecord k)) := rfl

/-- The register written reads as written. -/
@[simp] theorem readGpr_writeGpr_same (s : State) (r : Reg) (v : Word) : (s.writeGpr r v).readGpr r = v := by
  simp [State.readGpr]

/-- Every other register reads as before. -/
theorem readGpr_writeGpr_ne (s : State) (r g : Reg) (v : Word) (h : g ≠ r) :
    (s.writeGpr r v).readGpr g = s.readGpr g := by
  simp [State.readGpr, Fin.val_inj, h.symm]

/-- A register after a write, whichever it is. -/
theorem readGpr_writeGpr (s : State) (r g : Reg) (v : Word) :
    (s.writeGpr r v).readGpr g = if g = r then v else s.readGpr g := by
  by_cases h : g = r
  · subst h; simp
  · simp [h, readGpr_writeGpr_ne]

/-- Reading registers looks at the register file alone. -/
theorem readGpr_congr (s t : State) (h : t.gpr = s.gpr) (g : Reg) : t.readGpr g = s.readGpr g := by
  simp [State.readGpr, h]

end Sys2Proof.Machine
end

