-- ==== Sys2Proof/Laws/Effects.lean ====
section
/-! SUPPORT. What each shared operation does, once: `finish`, and the operations the families put over it. -/

namespace Sys2Proof.Machine

/-- LT, GT, EQ of three order bits. -/
def orderTriple (o : BitVec 3) : Order := (o.getMsbD 0, o.getMsbD 1, o.getMsbD 2)

/-- The order bits of a comparison, given what each bit says. -/
theorem orderTriple_orderBits (lt gt : Bool) (a b : Int) (hl : lt = decide (a < b)) (hg : gt = decide (b < a)) :
    orderTriple (orderBits lt gt) = orderOf a b := by
  subst hl hg
  simp only [orderTriple, orderOf, getMsbD_orderBits _ _ 0 (by omega), getMsbD_orderBits _ _ 1 (by omega),
    getMsbD_orderBits _ _ 2 (by omega)]
  rcases Int.lt_trichotomy a b with h | h | h
  · have h1 : ¬ b < a := by omega
    have h2 : ¬ a = b := by omega
    simp [h, h1, h2]
  · subst h; simp
  · have h1 : ¬ a < b := by omega
    have h2 : ¬ a = b := by omega
    simp [h, h1, h2]

/-- The record rule's order bits are the signed comparison with zero. -/
theorem orderTriple_resultOrder (r : Word) : orderTriple (resultOrder r) = signOrder r :=
  orderTriple_orderBits _ _ _ _ (by simp [BitVec.slt]) (by simp [BitVec.slt])

@[simp] theorem updateCa_gpr (s : State) (v : Option Bool) : (s.updateCa v).gpr = s.gpr := by cases v <;> rfl
@[simp] theorem updateCa_pc (s : State) (v : Option Bool) : (s.updateCa v).pc = s.pc := by cases v <;> rfl
@[simp] theorem updateCa_cr (s : State) (v : Option Bool) : (s.updateCa v).cr = s.cr := by cases v <;> rfl
@[simp] theorem updateCa_msr (s : State) (v : Option Bool) : (s.updateCa v).msr = s.msr := by cases v <;> rfl
@[simp] theorem updateCa_mem (s : State) (v : Option Bool) : (s.updateCa v).mem = s.mem := by cases v <;> rfl
@[simp] theorem updateCa_endPc (s : State) (v : Option Bool) : (s.updateCa v).endPc = s.endPc := by cases v <;> rfl
@[simp] theorem updateCa_draws (s : State) (v : Option Bool) : (s.updateCa v).draws = s.draws := by cases v <;> rfl

@[simp] theorem updateOverflow_gpr (s : State) (v : Option Bool) : (s.updateOverflow v).gpr = s.gpr := by cases v <;> rfl
@[simp] theorem updateOverflow_pc (s : State) (v : Option Bool) : (s.updateOverflow v).pc = s.pc := by cases v <;> rfl
@[simp] theorem updateOverflow_cr (s : State) (v : Option Bool) : (s.updateOverflow v).cr = s.cr := by cases v <;> rfl
@[simp] theorem updateOverflow_msr (s : State) (v : Option Bool) : (s.updateOverflow v).msr = s.msr := by cases v <;> rfl
@[simp] theorem updateOverflow_mem (s : State) (v : Option Bool) : (s.updateOverflow v).mem = s.mem := by cases v <;> rfl
@[simp] theorem updateOverflow_endPc (s : State) (v : Option Bool) : (s.updateOverflow v).endPc = s.endPc := by cases v <;> rfl
@[simp] theorem updateOverflow_draws (s : State) (v : Option Bool) : (s.updateOverflow v).draws = s.draws := by cases v <;> rfl

@[simp] theorem updateCr0_gpr (s : State) (v : Option (BitVec 3)) : (s.updateCr0 v).gpr = s.gpr := by cases v <;> rfl
@[simp] theorem updateCr0_pc (s : State) (v : Option (BitVec 3)) : (s.updateCr0 v).pc = s.pc := by cases v <;> rfl
@[simp] theorem updateCr0_xer (s : State) (v : Option (BitVec 3)) : (s.updateCr0 v).xer = s.xer := by cases v <;> rfl
@[simp] theorem updateCr0_msr (s : State) (v : Option (BitVec 3)) : (s.updateCr0 v).msr = s.msr := by cases v <;> rfl
@[simp] theorem updateCr0_mem (s : State) (v : Option (BitVec 3)) : (s.updateCr0 v).mem = s.mem := by cases v <;> rfl
@[simp] theorem updateCr0_endPc (s : State) (v : Option (BitVec 3)) : (s.updateCr0 v).endPc = s.endPc := by cases v <;> rfl
@[simp] theorem updateCr0_draws (s : State) (v : Option (BitVec 3)) : (s.updateCr0 v).draws = s.draws := by cases v <;> rfl

@[simp] theorem finish_msr (s : State) (d : Reg) (r : Word) (ca ov : Option Bool) (o : Option (BitVec 3)) :
    (s.finish d r ca ov o).msr = s.msr := by simp [State.finish]
@[simp] theorem finish_mem (s : State) (d : Reg) (r : Word) (ca ov : Option Bool) (o : Option (BitVec 3)) :
    (s.finish d r ca ov o).mem = s.mem := by simp [State.finish]
@[simp] theorem finish_endPc (s : State) (d : Reg) (r : Word) (ca ov : Option Bool) (o : Option (BitVec 3)) :
    (s.finish d r ca ov o).endPc = s.endPc := by simp [State.finish]
@[simp] theorem finish_draws (s : State) (d : Reg) (r : Word) (ca ov : Option Bool) (o : Option (BitVec 3)) :
    (s.finish d r ca ov o).draws = s.draws := by simp [State.finish]
@[simp] theorem finish_pc (s : State) (d : Reg) (r : Word) (ca ov : Option Bool) (o : Option (BitVec 3)) :
    (s.finish d r ca ov o).pc = s.pc + 4 := by simp [State.finish]

/-- The registers after `finish`. -/
theorem finish_readGpr (s : State) (d : Reg) (r : Word) (ca ov : Option Bool) (o : Option (BitVec 3)) (g : Reg) :
    (s.finish d r ca ov o).readGpr g = if g = d then r else s.readGpr g := by
  rw [readGpr_congr (s.writeGpr d r) _ (by simp [State.finish]), readGpr_writeGpr]

/-- The XER after CA, OV and SO are written. -/
theorem finish_xer (s : State) (d : Reg) (r : Word) (ca ov : Option Bool) (o : Option (BitVec 3)) (i : Nat)
    (hi : i < 32) :
    (s.finish d r ca ov o).xer.getMsbD i = ({ ca := ca, ov := ov : Effect }).xerBit s i := by
  have h : (s.finish d r ca ov o).xer = ((s.updateCa ca).updateOverflow ov).xer := by
    cases ca <;> cases ov <;> simp [State.finish, State.updateCa, State.updateOverflow]
  rw [h]
  cases ca <;> cases ov <;>
    simp only [State.updateCa, State.updateOverflow, setXer_xer, Effect.xerBit, getMsbD_withOverflow _ _ _ hi,
      getMsbD_withCa _ _ _ hi, getMsbD_withCa _ _ 0 (by omega), Option.getD_none, Option.getD_some, Bool.or_false] <;>
    (repeat' split) <;> simp_all

/-- A CR field that was written: the order bits, then SO as it is now. -/
theorem setCrOrder_cr (s : State) (k : CrIndex) (o : BitVec 3) (i : Nat) (hi : i < 32) :
    (s.setCrOrder k o).cr.getMsbD i = ({ cr := some (k, orderTriple o) : Effect }).crBit s s.so i := by
  simp only [State.setCrOrder, setCr_cr, getMsbD_withCrField _ _ _ _ hi, Effect.crBit, orderTriple]
  split
  · have h4 : i % 4 < 4 := Nat.mod_lt _ (by omega)
    rw [getMsbD_field _ _ _ h4]
    generalize i % 4 = j at h4
    interval_cases j <;> rfl
  · rfl

/-- The CR after `finish`. -/
theorem finish_cr (s : State) (d : Reg) (r : Word) (ca ov : Option Bool) (o : Option (BitVec 3)) (i : Nat)
    (hi : i < 32) :
    (s.finish d r ca ov o).cr.getMsbD i =
      ({ cr := o.map fun v => (0, orderTriple v) : Effect }).crBit s ((s.finish d r ca ov o).xer.getMsbD 0) i := by
  cases o with
  | none => simp [State.finish, State.updateCr0, Effect.crBit]
  | some v =>
    have hcr : (s.finish d r ca ov (some v)).cr =
        ((((s.writeGpr d r).updateCa ca).updateOverflow ov).setCrOrder 0 v).cr := rfl
    have hx : (s.finish d r ca ov (some v)).xer = (((s.writeGpr d r).updateCa ca).updateOverflow ov).xer := rfl
    have hs : (((s.writeGpr d r).updateCa ca).updateOverflow ov).cr = s.cr := by simp
    rw [hcr, hx, setCrOrder_cr _ _ _ _ hi]
    simp only [Effect.crBit, Option.map_some, hs, State.so]

/-- WHAT `finish` DOES: exactly the effect its arguments name. -/
theorem finish_holds (s : State) (d : Reg) (r : Word) (ca ov : Option Bool) (o : Option (BitVec 3)) :
    ({ target := some (d, r), ca := ca, ov := ov, cr := o.map fun v => (0, orderTriple v) } : Effect).Holds s
      (s.finish d r ca ov o) :=
  ⟨fun g => finish_readGpr s d r ca ov o g, fun i hi => finish_xer s d r ca ov o i hi,
    fun i hi => finish_cr s d r ca ov o i hi, by simp, by simp, by simp, by simp, by simp⟩

/-- WHAT `setCrOrder` then `advancePc` DOES: a compare's effect. -/
theorem compare_holds (s : State) (k : CrIndex) (o : BitVec 3) :
    ({ cr := some (k, orderTriple o) } : Effect).Holds s (s.setCrOrder k o).advancePc := by
  refine ⟨fun g => rfl, fun i hi => ?_, fun i hi => setCrOrder_cr s k o i hi, rfl, rfl, fun a => rfl, rfl, rfl⟩
  have e : (s.setCrOrder k o).advancePc.xer = s.xer := rfl
  rw [e, Effect.xerBit]
  split
  · next h => subst h; simp
  · split
    · next h => subst h; simp
    · split
      · next h => subst h; simp
      · rfl

/-- WHAT `advancePc` alone DOES: an instruction with no other effect. -/
theorem advancePc_holds (s : State) : ({} : Effect).Holds s s.advancePc := by
  refine ⟨fun g => rfl, fun i hi => ?_, fun i hi => rfl, rfl, rfl, fun a => rfl, rfl, rfl⟩
  have e : s.advancePc.xer = s.xer := rfl
  rw [e, Effect.xerBit]
  split
  · next h => subst h; simp
  · split
    · next h => subst h; simp
    · split
      · next h => subst h; simp
      · rfl

/-- WHAT `countDraw` ADDS to an effect: one draw. -/
theorem countDraw_holds (e : Effect) (s t : State) (h : e.Holds s t) :
    ({ e with drawn := e.drawn + 1 } : Effect).Holds s t.countDraw := by
  obtain ⟨h1, h2, h3, h4, h5, h6, h7, h8⟩ := h
  exact ⟨h1, h2, h3, h4, h5, h6, h7, by simp [h8]; omega⟩

/-- WHAT `sumInto` DOES. -/
theorem sumInto_holds (s : State) (setsCa oe rc : Bool) (d : Reg) (x y : Word) (c : Bool) :
    ({ target := some (d, sum32 x y c), ca := whenEnabled setsCa (carry32 x y c), ov := whenEnabled oe (ovf32 x y c),
       cr := whenEnabled rc (0, signOrder (sum32 x y c)) } : Effect).Holds s (s.sumInto setsCa oe rc d x y c) := by
  have h := finish_holds s d (sum32 x y c) (whenEnabled setsCa (carry32 x y c)) (whenEnabled oe (ovf32 x y c))
    (whenEnabled rc (resultOrder (sum32 x y c)))
  cases rc <;> simpa [whenEnabled, State.sumInto, orderTriple_resultOrder] using h

/-- WHAT `productLowInto` DOES. -/
theorem productLowInto_holds (s : State) (oe rc : Bool) (d : Reg) (a b : Word) :
    ({ target := some (d, BitVec.ofInt 32 (a.toInt * b.toInt)), ov := whenEnabled oe (outsideInt32 (a.toInt * b.toInt)),
       cr := whenEnabled rc (0, signOrder (BitVec.ofInt 32 (a.toInt * b.toInt))) } : Effect).Holds s
      (s.productLowInto oe rc d a b) := by
  have h := finish_holds s d (BitVec.ofInt 32 (a.toInt * b.toInt)) none
    (whenEnabled oe (outsideInt32 (a.toInt * b.toInt))) (whenEnabled rc (resultOrder (BitVec.ofInt 32 (a.toInt * b.toInt))))
  cases rc <;> simpa only [whenEnabled, State.productLowInto, Option.map, orderTriple_resultOrder, if_true, if_false,
    Bool.false_eq_true] using h

/-- WHAT `productHighInto` DOES. -/
theorem productHighInto_holds (s : State) (rc : Bool) (d : Reg) (p : Int) :
    ({ target := some (d, BitVec.ofInt 32 (p / 2 ^ 32)),
       cr := whenEnabled rc (0, signOrder (BitVec.ofInt 32 (p / 2 ^ 32))) } : Effect).Holds s
      (s.productHighInto rc d p) := by
  have h := finish_holds s d (BitVec.ofInt 32 (p / 2 ^ 32)) none none
    (whenEnabled rc (resultOrder (BitVec.ofInt 32 (p / 2 ^ 32))))
  cases rc <;> simpa only [whenEnabled, State.productHighInto, Option.map, orderTriple_resultOrder, if_true, if_false,
    Bool.false_eq_true] using h

/-- WHAT `quotientInto` DOES where the quotient is defined. -/
theorem quotientInto_defined (s : State) (oe rc : Bool) (d : Reg) (q : Word) :
    ({ target := some (d, q), ov := whenEnabled oe false, cr := whenEnabled rc (0, signOrder q) } : Effect).Holds s
      (s.quotientInto oe rc d false q) := by
  have h := finish_holds s d q none (whenEnabled oe false) (whenEnabled rc (resultOrder q))
  cases rc <;> simpa [whenEnabled, State.quotientInto, orderTriple_resultOrder] using h

/-- WHAT `quotientInto` DOES where the quotient is undefined: draws, and nothing else but OV, SO and the draw's count. -/
theorem quotientInto_undefined (s : State) (oe rc : Bool) (d : Reg) (q : Word) :
    ({ target := some (d, Config.divUndefResult s.draws), ov := whenEnabled oe true,
       cr := whenEnabled rc (0, orderTriple (Config.divUndefOrder s.draws)), drawn := 1 } : Effect).Holds s
      (s.quotientInto oe rc d true q) := by
  have h := countDraw_holds _ _ _ (finish_holds s d (Config.divUndefResult s.draws) none (whenEnabled oe true)
    (whenEnabled rc (Config.divUndefOrder s.draws)))
  cases rc <;> simpa [whenEnabled, State.quotientInto] using h

/-- WHAT `resultInto` DOES. -/
theorem resultInto_holds (s : State) (rc : Bool) (d : Reg) (r : Word) :
    ({ target := some (d, r), cr := whenEnabled rc (0, signOrder r) } : Effect).Holds s (s.resultInto rc d r) := by
  have h := finish_holds s d r none none (whenEnabled rc (resultOrder r))
  cases rc <;> simpa [whenEnabled, State.resultInto, orderTriple_resultOrder] using h

/-- WHAT `algebraicInto` DOES. -/
theorem algebraicInto_holds (s : State) (rc : Bool) (d : Reg) (v : Word) (n : Nat) :
    ({ target := some (d, shiftRightAlgebraic v n), ca := some (algebraicCarry v n),
       cr := whenEnabled rc (0, signOrder (shiftRightAlgebraic v n)) } : Effect).Holds s (s.algebraicInto rc d v n) := by
  have h := finish_holds s d (shiftRightAlgebraic v n) (some (algebraicCarry v n)) none
    (whenEnabled rc (resultOrder (shiftRightAlgebraic v n)))
  cases rc <;> simpa [whenEnabled, State.algebraicInto, orderTriple_resultOrder] using h

/-- WHAT `compareInto` DOES with L = 0. -/
theorem compareInto_holds (k : CrIndex) (w : Word) (o : BitVec 3) (s : State) :
    ∃ t, compareInto k false w o s = .next t ∧ ({ cr := some (k, orderTriple o) } : Effect).Holds s t :=
  ⟨_, rfl, compare_holds s k o⟩

/-- WHAT `trapWhen` DOES where the condition does not hold. -/
theorem trapWhen_not (s : State) : s.trapWhen false = .next s.advancePc := rfl

/-- WHAT `trapWhen` DOES where the condition holds. -/
theorem trapWhen_trap (s : State) : s.trapWhen true = s.takeException .programTrap := rfl

end Sys2Proof.Machine
end

