-- ==== Sys2Proof/Laws/Encoding.lean ====
section
/-! SUPPORT. The forms of an instruction word as numbers, the fields of each form, and the form of a word's fields. -/

namespace Sys2Proof

/-- Appending is adding at the next weight. -/
theorem toNat_append_add {m n : Nat} (x : BitVec m) (y : BitVec n) : (x ++ y).toNat = x.toNat * 2 ^ n + y.toNat := by
  rw [BitVec.toNat_append, ← Nat.shiftLeft_add_eq_or_of_lt y.isLt, Nat.shiftLeft_eq]

/-- The number of a Bool's bit. -/
theorem ofBool_toNat (b : Bool) : (BitVec.ofBool b).toNat = b.toNat := by cases b <;> rfl

theorem dForm_toNat (op : BitVec 6) (d a : Reg) (imm : BitVec 16) :
    (dForm op d a imm).toNat = op.toNat * 2 ^ 26 + d.val * 2 ^ 21 + a.val * 2 ^ 16 + imm.toNat := by
  simp only [dForm, toNat_append_add, BitVec.toNat_ofFin]; omega

theorem dCompareForm_toNat (op : BitVec 6) (k : CrIndex) (l : Bool) (a : Reg) (imm : BitVec 16) :
    (dCompareForm op k l a imm).toNat =
      op.toNat * 2 ^ 26 + k.val * 2 ^ 23 + l.toNat * 2 ^ 21 + a.val * 2 ^ 16 + imm.toNat := by
  simp only [dCompareForm, toNat_append_add, BitVec.toNat_ofFin, ofBool_toNat, BitVec.toNat_ofNat]; omega

theorem dTrapForm_toNat (op : BitVec 6) (trapOn : BitVec 5) (a : Reg) (imm : BitVec 16) :
    (dTrapForm op trapOn a imm).toNat = op.toNat * 2 ^ 26 + trapOn.toNat * 2 ^ 21 + a.val * 2 ^ 16 + imm.toNat := by
  simp only [dTrapForm, toNat_append_add, BitVec.toNat_ofFin]; omega

theorem xoForm_toNat (d a b : Reg) (oe : Bool) (xo : BitVec 9) (rc : Bool) :
    (xoForm d a b oe xo rc).toNat = 31 * 2 ^ 26 + d.val * 2 ^ 21 + a.val * 2 ^ 16 + b.val * 2 ^ 11 +
      oe.toNat * 2 ^ 10 + xo.toNat * 2 + rc.toNat := by
  simp only [xoForm, toNat_append_add, BitVec.toNat_ofFin, ofBool_toNat, BitVec.toNat_ofNat]; omega

theorem xForm_toNat (s a b : Fin 32) (xo : BitVec 10) (rc : Bool) :
    (xForm s a b xo rc).toNat = 31 * 2 ^ 26 + s.val * 2 ^ 21 + a.val * 2 ^ 16 + b.val * 2 ^ 11 + xo.toNat * 2 +
      rc.toNat := by
  simp only [xForm, toNat_append_add, BitVec.toNat_ofFin, ofBool_toNat, BitVec.toNat_ofNat]; omega

theorem xCompareForm_toNat (k : CrIndex) (l : Bool) (a b : Reg) (xo : BitVec 10) :
    (xCompareForm k l a b xo).toNat = 31 * 2 ^ 26 + k.val * 2 ^ 23 + l.toNat * 2 ^ 21 + a.val * 2 ^ 16 +
      b.val * 2 ^ 11 + xo.toNat * 2 := by
  simp only [xCompareForm, toNat_append_add, BitVec.toNat_ofFin, ofBool_toNat, BitVec.toNat_ofNat]; omega

theorem xTrapForm_toNat (trapOn : BitVec 5) (a b : Reg) (xo : BitVec 10) :
    (xTrapForm trapOn a b xo).toNat = 31 * 2 ^ 26 + trapOn.toNat * 2 ^ 21 + a.val * 2 ^ 16 + b.val * 2 ^ 11 +
      xo.toNat * 2 := by
  simp only [xTrapForm, toNat_append_add, BitVec.toNat_ofFin, BitVec.toNat_ofNat]; omega

theorem mForm_toNat (op : BitVec 6) (s a b mb me : Fin 32) (rc : Bool) :
    (mForm op s a b mb me rc).toNat = op.toNat * 2 ^ 26 + s.val * 2 ^ 21 + a.val * 2 ^ 16 + b.val * 2 ^ 11 +
      mb.val * 2 ^ 6 + me.val * 2 + rc.toNat := by
  simp only [mForm, toNat_append_add, BitVec.toNat_ofFin, ofBool_toNat]; omega

/-! ## The fields of a word as arithmetic on its number -/

theorem fieldOpcd_toNat (w : Word) : (fieldOpcd w).toNat = w.toNat / 2 ^ 26 := by
  have := w.isLt
  simp only [fieldOpcd, BitVec.extractLsb'_toNat, Nat.shiftRight_eq_div_pow]; omega

theorem fieldD_val (w : Word) : (fieldD w).val = w.toNat / 2 ^ 21 % 32 := by
  simp [fieldD, Nat.shiftRight_eq_div_pow]

theorem fieldTo_toNat (w : Word) : (fieldTo w).toNat = w.toNat / 2 ^ 21 % 32 := by
  simp [fieldTo, BitVec.extractLsb'_toNat, Nat.shiftRight_eq_div_pow]

theorem fieldCrfD_val (w : Word) : (fieldCrfD w).val = w.toNat / 2 ^ 23 % 8 := by
  simp [fieldCrfD, Nat.shiftRight_eq_div_pow]

theorem fieldA_val (w : Word) : (fieldA w).val = w.toNat / 2 ^ 16 % 32 := by
  simp [fieldA, Nat.shiftRight_eq_div_pow]

theorem fieldB_val (w : Word) : (fieldB w).val = w.toNat / 2 ^ 11 % 32 := by
  simp [fieldB, Nat.shiftRight_eq_div_pow]

theorem fieldMb_val (w : Word) : (fieldMb w).val = w.toNat / 2 ^ 6 % 32 := by
  simp [fieldMb, Nat.shiftRight_eq_div_pow]

theorem fieldMe_val (w : Word) : (fieldMe w).val = w.toNat / 2 % 32 := by
  simp [fieldMe, Nat.shiftRight_eq_div_pow]

theorem fieldImm_toNat (w : Word) : (fieldImm w).toNat = w.toNat % 2 ^ 16 := by
  simp [fieldImm, BitVec.extractLsb'_toNat]

theorem fieldXo9_toNat (w : Word) : (fieldXo9 w).toNat = w.toNat / 2 % 512 := by
  simp [fieldXo9, BitVec.extractLsb'_toNat, Nat.shiftRight_eq_div_pow]

theorem fieldXo10_toNat (w : Word) : (fieldXo10 w).toNat = w.toNat / 2 % 1024 := by
  simp [fieldXo10, BitVec.extractLsb'_toNat, Nat.shiftRight_eq_div_pow]

/-- A bit as arithmetic. -/
theorem getLsbD_eq_decide (w : Word) (i : Nat) : w.getLsbD i = decide (w.toNat / 2 ^ i % 2 = 1) := by
  rw [← BitVec.testBit_toNat, Nat.testBit_eq_decide_div_mod_eq]

/-- A bit of a word, as a number. -/
theorem getLsbD_toNat (w : Word) (i : Nat) : (w.getLsbD i).toNat = w.toNat / 2 ^ i % 2 := by
  rw [getLsbD_eq_decide]
  rcases Nat.mod_two_eq_zero_or_one (w.toNat / 2 ^ i) with h | h <;> simp [h]

end Sys2Proof
end

