-- ==== Sys2Proof/Laws/Memory.lean ====
section
/-! SUPPORT. Reading and writing memory, its canonical form, and fetching a word that was placed. -/

namespace Sys2Proof.Machine

/-- The byte written reads as written. -/
theorem read_write_same (m : Memory) (a : Nat) (v : Byte) : (m.write a v).read a = some v := by
  induction m with
  | nil => simp [Memory.write, Memory.read]
  | cons x rest ih =>
    obtain ⟨b, u⟩ := x
    simp only [Memory.write]
    split
    · simp [Memory.read]
    · split
      · simp [Memory.read]
      · next h => simp [Memory.read, h, ih]

/-- Every other address reads as before. -/
theorem read_write_ne (m : Memory) (a c : Nat) (v : Byte) (h : c ≠ a) : (m.write a v).read c = m.read c := by
  induction m with
  | nil => simp [Memory.write, Memory.read, h]
  | cons x rest ih =>
    obtain ⟨b, u⟩ := x
    simp only [Memory.write]
    split
    · simp [Memory.read, h]
    · split
      · next h2 => subst h2; simp [Memory.read, h]
      · simp [Memory.read, ih]

/-- The addresses of a memory after a write. -/
theorem mem_write (m : Memory) (a : Nat) (v : Byte) (x : Host.Cell) (h : x ∈ m.write a v) : x = (a, v) ∨ x ∈ m := by
  induction m with
  | nil => simpa [Memory.write] using h
  | cons y rest ih =>
    obtain ⟨b, u⟩ := y
    simp only [Memory.write] at h
    split at h
    · simpa using h
    · split at h
      · rcases List.mem_cons.1 h with h | h
        · exact .inl h
        · exact .inr (List.mem_cons_of_mem _ h)
      · rcases List.mem_cons.1 h with h | h
        · exact .inr (h ▸ List.mem_cons_self ..)
        · exact (ih h).imp id (List.mem_cons_of_mem _)

/-- A write inside the 32-bit space keeps the canonical form. -/
theorem wf_write (m : Memory) (a : Nat) (v : Byte) (ha : a < 2 ^ 32) (h : m.wf = true) : (m.write a v).wf = true := by
  induction m with
  | nil => simpa [Memory.write, Memory.wf, unlistedByte] using ha
  | cons x rest ih =>
    obtain ⟨b, u⟩ := x
    simp only [Memory.wf, Bool.and_eq_true, decide_eq_true_eq, List.all_eq_true, List.pairwise_cons] at h ih ⊢
    obtain ⟨⟨hb, hp⟩, hall⟩ := h
    have hrest := ih ⟨hp, fun y hy => hall y (List.mem_cons_of_mem _ hy)⟩
    have hx := hall (b, u) (List.mem_cons_self ..)
    have hav : ((a, v) : Host.Cell).1 < 2 ^ 32 ∧ some v ≠ unlistedByte := ⟨ha, by simp [unlistedByte]⟩
    simp only [Memory.write]
    split
    · next hlt =>
      refine ⟨List.pairwise_cons.2 ⟨?_, List.pairwise_cons.2 ⟨hb, hp⟩⟩, ?_⟩
      · intro y hy
        rcases List.mem_cons.1 hy with rfl | hy
        · exact hlt
        · exact Nat.lt_trans hlt (hb y hy)
      · intro y hy
        rcases List.mem_cons.1 hy with rfl | hy
        · exact hav
        · exact hall y hy
    · split
      · next heq =>
        subst heq
        refine ⟨List.pairwise_cons.2 ⟨hb, hp⟩, ?_⟩
        intro y hy
        rcases List.mem_cons.1 hy with rfl | hy
        · exact hav
        · exact hall y (List.mem_cons_of_mem _ hy)
      · next hge hne =>
        refine ⟨List.pairwise_cons.2 ⟨?_, hrest.1⟩, ?_⟩
        · intro y hy
          rcases mem_write rest a v y hy with rfl | hy
          · show b < a; omega
          · exact hb y hy
        · intro y hy
          rcases List.mem_cons.1 hy with rfl | hy
          · exact hx
          · exact hrest.2 y hy

/-- Writing bytes keeps the canonical form. -/
theorem wf_writeBytes (m : Memory) (a : Word) (bs : List Byte) (h : m.wf = true) : (m.writeBytes a bs).wf = true := by
  induction bs generalizing m a with
  | nil => exact h
  | cons b bs ih => exact ih _ _ (wf_write m a.toNat b a.isLt h)

/-- Placing a word keeps the canonical form of memory. -/
theorem wf_placeWord (s : State) (w : Word) (h : s.mem.wf = true) : (s.placeWord w).mem.wf = true :=
  wf_writeBytes _ _ _ h

/-- The memory after reset is in canonical form. -/
theorem reset_mem_wf : State.reset.mem.wf = true := by decide

/-- Four bytes are read exactly when memory defines each of them. -/
theorem readBytes_four (m : Memory) (a : Word) (b0 b1 b2 b3 : Byte) :
    m.readBytes a 4 = some [b0, b1, b2, b3] ↔
      m.read a.toNat = some b0 ∧ m.read (a + 1).toNat = some b1 ∧ m.read (a + 2).toNat = some b2 ∧
        m.read (a + 3).toNat = some b3 := by
  have e2 : a + 1 + 1 = a + 2 := by rw [BitVec.add_assoc]; rfl
  have e3 : a + 2 + 1 = a + 3 := by rw [BitVec.add_assoc]; rfl
  simp only [Memory.readBytes, e2, e3]
  cases m.read a.toNat <;> cases m.read (a + 1).toNat <;> cases m.read (a + 2).toNat <;>
    cases m.read (a + 3).toNat <;> simp

/-- What is read as four bytes is four bytes. -/
theorem readBytes_length (m : Memory) (a : Word) (n : Nat) (bs : List Byte) (h : m.readBytes a n = some bs) :
    bs.length = n := by
  induction n generalizing a bs with
  | zero => simp [Memory.readBytes] at h; simp [← h]
  | succ n ih =>
    simp only [Memory.readBytes] at h
    split at h
    · next hb => simp only [Option.some.injEq] at h; subst h; simp [ih _ _ hb]
    · cases h

/-- A word is fetched exactly when memory defines its four bytes, and is then formed from them. -/
theorem fetchWord_eq_some (s : State) (w : Word) :
    s.fetchWord = some w ↔ ∃ b0 b1 b2 b3, wordOfBytes b0 b1 b2 b3 = w ∧
      s.mem.read s.pc.toNat = some b0 ∧ s.mem.read (s.pc + 1).toNat = some b1 ∧
      s.mem.read (s.pc + 2).toNat = some b2 ∧ s.mem.read (s.pc + 3).toNat = some b3 := by
  unfold State.fetchWord
  constructor
  · intro h
    split at h
    · next b0 b1 b2 b3 hb =>
      exact ⟨b0, b1, b2, b3, by simpa using h, (readBytes_four _ _ _ _ _ _).1 hb⟩
    · cases h
  · rintro ⟨b0, b1, b2, b3, rfl, hb⟩
    rw [(readBytes_four s.mem s.pc b0 b1 b2 b3).2 hb]

/-- The value of the word formed from four bytes: the first is the most significant (R32). -/
theorem wordOfBytes_toNat (b0 b1 b2 b3 : Byte) :
    (wordOfBytes b0 b1 b2 b3).toNat = b0.toNat * 2 ^ 24 + b1.toNat * 2 ^ 16 + b2.toNat * 2 ^ 8 + b3.toNat := by
  have h0 := b0.isLt; have h1 := b1.isLt; have h2 := b2.isLt; have h3 := b3.isLt
  simp only [wordOfBytes, BitVec.toNat_append]
  rw [← Nat.shiftLeft_add_eq_or_of_lt (by omega), ← Nat.shiftLeft_add_eq_or_of_lt (by omega),
    ← Nat.shiftLeft_add_eq_or_of_lt (by omega)]
  simp only [Nat.shiftLeft_eq]
  omega

/-- The bytes of a word form it again. -/
theorem wordOfBytes_bytesOfWord (w : Word) :
    wordOfBytes (w.extractLsb' 24 8) (w.extractLsb' 16 8) (w.extractLsb' 8 8) (w.extractLsb' 0 8) = w := by
  apply BitVec.eq_of_toNat_eq
  have := w.isLt
  rw [wordOfBytes_toNat]
  simp only [BitVec.extractLsb'_toNat, Nat.shiftRight_eq_div_pow]
  omega

/-- Decoding the laid-out bytes of a word is decoding the word. -/
theorem decodeBytes_bytesOfWord (w : Word) : decodeBytes (bytesOfWord w) = decodeWord w := by
  simp only [bytesOfWord, decodeBytes, wordOfBytes_bytesOfWord]

/-- Addresses at different offsets below 4 from one address differ. -/
theorem offset_ne (a : Word) (m n : Nat) (hm : m < 4) (hn : n < 4) (h : m ≠ n) :
    (a + BitVec.ofNat 32 m).toNat ≠ (a + BitVec.ofNat 32 n).toNat := by
  have := a.isLt
  simp only [BitVec.toNat_add, BitVec.toNat_ofNat]
  omega

/-- The word that was placed is the word that is fetched. -/
theorem fetchWord_placeWord (s : State) (w : Word) : (s.placeWord w).fetchWord = some w := by
  rw [fetchWord_eq_some]
  refine ⟨_, _, _, _, wordOfBytes_bytesOfWord w, ?_⟩
  have e2 : alignedDown s.pc + 1 + 1 = alignedDown s.pc + 2 := by rw [BitVec.add_assoc]; rfl
  have e3 : alignedDown s.pc + 2 + 1 = alignedDown s.pc + 3 := by rw [BitVec.add_assoc]; rfl
  have d := offset_ne (alignedDown s.pc)
  have o0 : alignedDown s.pc + 0 = alignedDown s.pc := by simp
  have d01 : (alignedDown s.pc + 0).toNat ≠ (alignedDown s.pc + 1).toNat := d 0 1 (by omega) (by omega) (by omega)
  have d02 : (alignedDown s.pc + 0).toNat ≠ (alignedDown s.pc + 2).toNat := d 0 2 (by omega) (by omega) (by omega)
  have d03 : (alignedDown s.pc + 0).toNat ≠ (alignedDown s.pc + 3).toNat := d 0 3 (by omega) (by omega) (by omega)
  have d12 : (alignedDown s.pc + 1).toNat ≠ (alignedDown s.pc + 2).toNat := d 1 2 (by omega) (by omega) (by omega)
  have d13 : (alignedDown s.pc + 1).toNat ≠ (alignedDown s.pc + 3).toNat := d 1 3 (by omega) (by omega) (by omega)
  have d23 : (alignedDown s.pc + 2).toNat ≠ (alignedDown s.pc + 3).toNat := d 2 3 (by omega) (by omega) (by omega)
  rw [o0] at d01 d02 d03
  simp only [State.placeWord, bytesOfWord, Memory.writeBytes, e2, e3]
  refine ⟨?_, ?_, ?_, ?_⟩
  · rw [read_write_ne _ _ _ _ d03, read_write_ne _ _ _ _ d02, read_write_ne _ _ _ _ d01, read_write_same]
  · rw [read_write_ne _ _ _ _ d13, read_write_ne _ _ _ _ d12, read_write_same]
  · rw [read_write_ne _ _ _ _ d23, read_write_same]
  · rw [read_write_same]

/-- Alignment as arithmetic. -/
theorem wordAligned_iff (a : Word) : wordAligned a = true ↔ a.toNat % 4 = 0 := by
  simp only [wordAligned, beq_iff_eq]
  rw [← BitVec.toNat_inj]
  simp [BitVec.extractLsb'_toNat]

/-- `alignedDown` clears the two low bits. -/
theorem alignedDown_toNat (a : Word) : (alignedDown a).toNat = a.toNat / 4 * 4 := by
  have e : alignedDown a = (a >>> 2) <<< 2 := by
    apply BitVec.eq_of_getLsbD_eq
    intro i hi
    have h3 : (~~~3#32).getLsbD i = !decide (i < 2) := by interval_cases i <;> rfl
    simp only [alignedDown, BitVec.getLsbD_and, h3, BitVec.getLsbD_shiftLeft, BitVec.getLsbD_ushiftRight, hi,
      decide_true, Bool.true_and]
    by_cases h : i < 2
    · simp [h]
    · have : 2 + (i - 2) = i := by omega
      simp [h, this]
  have := a.isLt
  rw [e]
  simp only [BitVec.toNat_shiftLeft, BitVec.toNat_ushiftRight, Nat.shiftLeft_eq, Nat.shiftRight_eq_div_pow]
  omega

/-- The pc where a word is placed is aligned. -/
theorem placeWord_aligned (s : State) (w : Word) : wordAligned (s.placeWord w).pc = true := by
  rw [wordAligned_iff]
  show (alignedDown s.pc).toNat % 4 = 0
  rw [alignedDown_toNat]; omega

/-- The next step at a placed word decodes that word. -/
theorem fetchInstr_placeWord (s : State) (w : Word) :
    (s.placeWord w).fetchInstr = decodedOutcome (alignedDown s.pc) w := by
  have h := fetchWord_placeWord s w
  have ha := placeWord_aligned s w
  have hp : (s.placeWord w).pc = alignedDown s.pc := rfl
  have he : (s.placeWord w).endPc ≠ some (s.placeWord w).pc := by
    simp only [State.placeWord]
    split
    · simp
    · next h => exact h
  simp only [State.fetchInstr, h]
  rw [if_pos ha, if_neg he, hp]

end Sys2Proof.Machine
end

