-- ==== Sys2Proof/Laws/Outcomes.lean ====
section
/-! SUPPORT. What one execution can do, once, for every instruction: an effect within the instruction's footprint, the
exception it can raise, or the end of a term that is no valid form. -/

namespace Sys2Proof.Machine

/-- The effect writes what the footprint of the instruction names, and draws exactly where the instruction is an undefined
divide: the word in the target and the LT, GT and EQ of a recorded result are then the draws at the counter. -/
def Effect.Fits (e : Effect) (i : Instr) (s : State) : Prop :=
  e.target.map Prod.fst = (footprint i).gpr ∧ e.ca.isSome = (footprint i).ca ∧
  e.ov.isSome = (footprint i).overflow ∧ e.cr.map Prod.fst = (footprint i).cr ∧
  (UndefinedDivide s i → e.drawn = 1 ∧ e.target.map Prod.snd = some (Config.divUndefResult s.draws) ∧
    ∀ o, e.cr.map Prod.snd = some o → o = orderTriple (Config.divUndefOrder s.draws)) ∧
  (¬ UndefinedDivide s i → e.drawn = 0)

/-- An outcome of an instruction: a next state by an effect that fits, with memory the same list; the exception the
instruction can raise; or, of a term that is no valid form, that end. No instruction is refused. -/
def Outcomes (i : Instr) (s : State) : Host.Outcome State Fault Refusal → Prop
  | .next t => t.mem = s.mem ∧ ∃ e : Effect, e.Holds s t ∧ e.Fits i s
  | .fault f =>
    (∃ k, (footprint i).raises = some k ∧ f = .exception (s.exceptionRecord k)) ∨
    (i.wellFormed = false ∧ f = .invalidForm s.pc (encode i))
  | .refused _ => False

theorem whenEnabled_isSome {α : Type} (b : Bool) (v : α) : (whenEnabled b v).isSome = b := by cases b <;> rfl

theorem whenEnabled_map {α β : Type} (b : Bool) (v : α) (f : α → β) : (whenEnabled b v).map f = whenEnabled b (f v) := by
  cases b <;> rfl

theorem sumInto_outcomes (i : Instr) (s : State) (setsCa oe rc : Bool) (d : Reg) (x y : Word) (c : Bool)
    (hf : footprint i = { gpr := some d, ca := setsCa, overflow := oe, cr := whenEnabled rc 0 })
    (hu : ¬ UndefinedDivide s i) : Outcomes i s (.next (s.sumInto setsCa oe rc d x y c)) := by
  refine ⟨by simp [State.sumInto], _, sumInto_holds s setsCa oe rc d x y c, ?_⟩
  simp [Effect.Fits, hf, whenEnabled_isSome, whenEnabled_map, hu]

theorem productLowInto_outcomes (i : Instr) (s : State) (oe rc : Bool) (d : Reg) (a b : Word)
    (hf : footprint i = { gpr := some d, overflow := oe, cr := whenEnabled rc 0 })
    (hu : ¬ UndefinedDivide s i) : Outcomes i s (.next (s.productLowInto oe rc d a b)) := by
  refine ⟨by simp [State.productLowInto], _, productLowInto_holds s oe rc d a b, ?_⟩
  simp [Effect.Fits, hf, whenEnabled_isSome, whenEnabled_map, hu]

theorem productHighInto_outcomes (i : Instr) (s : State) (rc : Bool) (d : Reg) (p : Int)
    (hf : footprint i = { gpr := some d, cr := whenEnabled rc 0 })
    (hu : ¬ UndefinedDivide s i) : Outcomes i s (.next (s.productHighInto rc d p)) := by
  refine ⟨by simp [State.productHighInto], _, productHighInto_holds s rc d p, ?_⟩
  simp [Effect.Fits, hf, whenEnabled_map, hu]

theorem resultInto_outcomes (i : Instr) (s : State) (rc : Bool) (d : Reg) (r : Word)
    (hf : footprint i = { gpr := some d, cr := whenEnabled rc 0 })
    (hu : ¬ UndefinedDivide s i) : Outcomes i s (.next (s.resultInto rc d r)) := by
  refine ⟨by simp [State.resultInto], _, resultInto_holds s rc d r, ?_⟩
  simp [Effect.Fits, hf, whenEnabled_map, hu]

theorem algebraicInto_outcomes (i : Instr) (s : State) (rc : Bool) (d : Reg) (v : Word) (n : Nat)
    (hf : footprint i = { gpr := some d, ca := true, cr := whenEnabled rc 0 })
    (hu : ¬ UndefinedDivide s i) : Outcomes i s (.next (s.algebraicInto rc d v n)) := by
  refine ⟨by simp [State.algebraicInto], _, algebraicInto_holds s rc d v n, ?_⟩
  simp [Effect.Fits, hf, whenEnabled_map, hu]

theorem compareInto_outcomes (i : Instr) (s : State) (k : CrIndex) (l : Bool) (o : BitVec 3)
    (hf : footprint i = { cr := some k }) (hw : i.wellFormed = !l) (hu : ¬ UndefinedDivide s i) :
    Outcomes i s (compareInto k l (encode i) o s) := by
  cases l
  · refine ⟨rfl, _, compare_holds s k o, ?_⟩
    simp [Effect.Fits, hf, hu]
  · exact .inr ⟨hw, rfl⟩

theorem takeException_outcomes (i : Instr) (s : State) (k : ExceptionKind) (hf : footprint i = { raises := some k }) :
    Outcomes i s (s.takeException k) := .inl ⟨k, by rw [hf], rfl⟩

theorem trapWhen_outcomes (i : Instr) (s : State) (c : Bool) (hf : footprint i = { raises := some .programTrap })
    (hu : ¬ UndefinedDivide s i) : Outcomes i s (s.trapWhen c) := by
  cases c
  · exact ⟨rfl, _, advancePc_holds s, by simp [Effect.Fits, hf, hu]⟩
  · exact takeException_outcomes i s _ hf

/-- The undefined cases of the signed divides, in exact arithmetic. -/
theorem signedUndefined_iff (a b : Word) : signedUndefined a b = true ↔ UndefinedQuotient true a b := by
  have h1 : a = 0x80000000#32 ↔ a.toInt = -2147483648 := by rw [← BitVec.toInt_inj]; rfl
  have h2 : b = 0xFFFFFFFF#32 ↔ b.toInt = -1 := by rw [← BitVec.toInt_inj]; rfl
  simp [signedUndefined, UndefinedQuotient, h1, h2]

/-- The undefined case of the unsigned divides. -/
theorem unsignedUndefined_iff (a b : Word) : unsignedUndefined b = true ↔ UndefinedQuotient false a b := by
  simp [unsignedUndefined, UndefinedQuotient]

theorem quotientInto_outcomes (i : Instr) (s : State) (oe rc : Bool) (d : Reg) (u : Bool) (q : Word)
    (hf : footprint i = { gpr := some d, overflow := oe, cr := whenEnabled rc 0 })
    (hu : u = true ↔ UndefinedDivide s i) : Outcomes i s (.next (s.quotientInto oe rc d u q)) := by
  cases u
  · refine ⟨by simp [State.quotientInto], _, quotientInto_defined s oe rc d q, ?_⟩
    simp [Effect.Fits, hf, whenEnabled_isSome, whenEnabled_map, ← hu]
  · refine ⟨by simp [State.quotientInto], _, quotientInto_undefined s oe rc d q, ?_⟩
    cases oe <;> cases rc <;> simp [Effect.Fits, hf, whenEnabled, ← hu]

/-- EVERYTHING ONE EXECUTION CAN DO. -/
theorem exec_outcomes (i : Instr) (s : State) : Outcomes i s (exec i s) := by
  cases i with
  | addi rD rA simm => exact sumInto_outcomes _ _ _ _ _ _ _ _ _ rfl id
  | addis rD rA simm => exact sumInto_outcomes _ _ _ _ _ _ _ _ _ rfl id
  | add rD rA rB => exact sumInto_outcomes _ _ _ _ _ _ _ _ _ rfl id
  | addRc rD rA rB => exact sumInto_outcomes _ _ _ _ _ _ _ _ _ rfl id
  | addo rD rA rB => exact sumInto_outcomes _ _ _ _ _ _ _ _ _ rfl id
  | addoRc rD rA rB => exact sumInto_outcomes _ _ _ _ _ _ _ _ _ rfl id
  | subf rD rA rB => exact sumInto_outcomes _ _ _ _ _ _ _ _ _ rfl id
  | subfRc rD rA rB => exact sumInto_outcomes _ _ _ _ _ _ _ _ _ rfl id
  | subfo rD rA rB => exact sumInto_outcomes _ _ _ _ _ _ _ _ _ rfl id
  | subfoRc rD rA rB => exact sumInto_outcomes _ _ _ _ _ _ _ _ _ rfl id
  | addic rD rA simm => exact sumInto_outcomes _ _ _ _ _ _ _ _ _ rfl id
  | addicRc rD rA simm => exact sumInto_outcomes _ _ _ _ _ _ _ _ _ rfl id
  | subfic rD rA simm => exact sumInto_outcomes _ _ _ _ _ _ _ _ _ rfl id
  | addc rD rA rB => exact sumInto_outcomes _ _ _ _ _ _ _ _ _ rfl id
  | addcRc rD rA rB => exact sumInto_outcomes _ _ _ _ _ _ _ _ _ rfl id
  | addco rD rA rB => exact sumInto_outcomes _ _ _ _ _ _ _ _ _ rfl id
  | addcoRc rD rA rB => exact sumInto_outcomes _ _ _ _ _ _ _ _ _ rfl id
  | subfc rD rA rB => exact sumInto_outcomes _ _ _ _ _ _ _ _ _ rfl id
  | subfcRc rD rA rB => exact sumInto_outcomes _ _ _ _ _ _ _ _ _ rfl id
  | subfco rD rA rB => exact sumInto_outcomes _ _ _ _ _ _ _ _ _ rfl id
  | subfcoRc rD rA rB => exact sumInto_outcomes _ _ _ _ _ _ _ _ _ rfl id
  | adde rD rA rB => exact sumInto_outcomes _ _ _ _ _ _ _ _ _ rfl id
  | addeRc rD rA rB => exact sumInto_outcomes _ _ _ _ _ _ _ _ _ rfl id
  | addeo rD rA rB => exact sumInto_outcomes _ _ _ _ _ _ _ _ _ rfl id
  | addeoRc rD rA rB => exact sumInto_outcomes _ _ _ _ _ _ _ _ _ rfl id
  | subfe rD rA rB => exact sumInto_outcomes _ _ _ _ _ _ _ _ _ rfl id
  | subfeRc rD rA rB => exact sumInto_outcomes _ _ _ _ _ _ _ _ _ rfl id
  | subfeo rD rA rB => exact sumInto_outcomes _ _ _ _ _ _ _ _ _ rfl id
  | subfeoRc rD rA rB => exact sumInto_outcomes _ _ _ _ _ _ _ _ _ rfl id
  | addme rD rA => exact sumInto_outcomes _ _ _ _ _ _ _ _ _ rfl id
  | addmeRc rD rA => exact sumInto_outcomes _ _ _ _ _ _ _ _ _ rfl id
  | addmeo rD rA => exact sumInto_outcomes _ _ _ _ _ _ _ _ _ rfl id
  | addmeoRc rD rA => exact sumInto_outcomes _ _ _ _ _ _ _ _ _ rfl id
  | subfme rD rA => exact sumInto_outcomes _ _ _ _ _ _ _ _ _ rfl id
  | subfmeRc rD rA => exact sumInto_outcomes _ _ _ _ _ _ _ _ _ rfl id
  | subfmeo rD rA => exact sumInto_outcomes _ _ _ _ _ _ _ _ _ rfl id
  | subfmeoRc rD rA => exact sumInto_outcomes _ _ _ _ _ _ _ _ _ rfl id
  | addze rD rA => exact sumInto_outcomes _ _ _ _ _ _ _ _ _ rfl id
  | addzeRc rD rA => exact sumInto_outcomes _ _ _ _ _ _ _ _ _ rfl id
  | addzeo rD rA => exact sumInto_outcomes _ _ _ _ _ _ _ _ _ rfl id
  | addzeoRc rD rA => exact sumInto_outcomes _ _ _ _ _ _ _ _ _ rfl id
  | subfze rD rA => exact sumInto_outcomes _ _ _ _ _ _ _ _ _ rfl id
  | subfzeRc rD rA => exact sumInto_outcomes _ _ _ _ _ _ _ _ _ rfl id
  | subfzeo rD rA => exact sumInto_outcomes _ _ _ _ _ _ _ _ _ rfl id
  | subfzeoRc rD rA => exact sumInto_outcomes _ _ _ _ _ _ _ _ _ rfl id
  | neg rD rA => exact sumInto_outcomes _ _ _ _ _ _ _ _ _ rfl id
  | negRc rD rA => exact sumInto_outcomes _ _ _ _ _ _ _ _ _ rfl id
  | nego rD rA => exact sumInto_outcomes _ _ _ _ _ _ _ _ _ rfl id
  | negoRc rD rA => exact sumInto_outcomes _ _ _ _ _ _ _ _ _ rfl id
  | mulli rD rA simm => exact productLowInto_outcomes _ _ _ _ _ _ _ rfl id
  | mullw rD rA rB => exact productLowInto_outcomes _ _ _ _ _ _ _ rfl id
  | mullwRc rD rA rB => exact productLowInto_outcomes _ _ _ _ _ _ _ rfl id
  | mullwo rD rA rB => exact productLowInto_outcomes _ _ _ _ _ _ _ rfl id
  | mullwoRc rD rA rB => exact productLowInto_outcomes _ _ _ _ _ _ _ rfl id
  | mulhw rD rA rB => exact productHighInto_outcomes _ _ _ _ _ rfl id
  | mulhwRc rD rA rB => exact productHighInto_outcomes _ _ _ _ _ rfl id
  | mulhwu rD rA rB => exact productHighInto_outcomes _ _ _ _ _ rfl id
  | mulhwuRc rD rA rB => exact productHighInto_outcomes _ _ _ _ _ rfl id
  | divw rD rA rB => exact quotientInto_outcomes _ _ _ _ _ _ _ rfl (signedUndefined_iff _ _)
  | divwRc rD rA rB => exact quotientInto_outcomes _ _ _ _ _ _ _ rfl (signedUndefined_iff _ _)
  | divwo rD rA rB => exact quotientInto_outcomes _ _ _ _ _ _ _ rfl (signedUndefined_iff _ _)
  | divwoRc rD rA rB => exact quotientInto_outcomes _ _ _ _ _ _ _ rfl (signedUndefined_iff _ _)
  | divwu rD rA rB => exact quotientInto_outcomes _ _ _ _ _ _ _ rfl (unsignedUndefined_iff (s.readGpr rA) _)
  | divwuRc rD rA rB => exact quotientInto_outcomes _ _ _ _ _ _ _ rfl (unsignedUndefined_iff (s.readGpr rA) _)
  | divwuo rD rA rB => exact quotientInto_outcomes _ _ _ _ _ _ _ rfl (unsignedUndefined_iff (s.readGpr rA) _)
  | divwuoRc rD rA rB => exact quotientInto_outcomes _ _ _ _ _ _ _ rfl (unsignedUndefined_iff (s.readGpr rA) _)
  | cmpi crfD l rA simm => exact compareInto_outcomes _ _ _ _ _ rfl rfl id
  | cmp crfD l rA rB => exact compareInto_outcomes _ _ _ _ _ rfl rfl id
  | cmpli crfD l rA uimm => exact compareInto_outcomes _ _ _ _ _ rfl rfl id
  | cmpl crfD l rA rB => exact compareInto_outcomes _ _ _ _ _ rfl rfl id
  | andiRc rA rS uimm => exact resultInto_outcomes _ _ _ _ _ rfl id
  | andisRc rA rS uimm => exact resultInto_outcomes _ _ _ _ _ rfl id
  | ori rA rS uimm => exact resultInto_outcomes _ _ _ _ _ rfl id
  | oris rA rS uimm => exact resultInto_outcomes _ _ _ _ _ rfl id
  | xori rA rS uimm => exact resultInto_outcomes _ _ _ _ _ rfl id
  | xoris rA rS uimm => exact resultInto_outcomes _ _ _ _ _ rfl id
  | and rA rS rB => exact resultInto_outcomes _ _ _ _ _ rfl id
  | andRc rA rS rB => exact resultInto_outcomes _ _ _ _ _ rfl id
  | or rA rS rB => exact resultInto_outcomes _ _ _ _ _ rfl id
  | orRc rA rS rB => exact resultInto_outcomes _ _ _ _ _ rfl id
  | xor rA rS rB => exact resultInto_outcomes _ _ _ _ _ rfl id
  | xorRc rA rS rB => exact resultInto_outcomes _ _ _ _ _ rfl id
  | nand rA rS rB => exact resultInto_outcomes _ _ _ _ _ rfl id
  | nandRc rA rS rB => exact resultInto_outcomes _ _ _ _ _ rfl id
  | nor rA rS rB => exact resultInto_outcomes _ _ _ _ _ rfl id
  | norRc rA rS rB => exact resultInto_outcomes _ _ _ _ _ rfl id
  | eqv rA rS rB => exact resultInto_outcomes _ _ _ _ _ rfl id
  | eqvRc rA rS rB => exact resultInto_outcomes _ _ _ _ _ rfl id
  | andc rA rS rB => exact resultInto_outcomes _ _ _ _ _ rfl id
  | andcRc rA rS rB => exact resultInto_outcomes _ _ _ _ _ rfl id
  | orc rA rS rB => exact resultInto_outcomes _ _ _ _ _ rfl id
  | orcRc rA rS rB => exact resultInto_outcomes _ _ _ _ _ rfl id
  | extsb rA rS => exact resultInto_outcomes _ _ _ _ _ rfl id
  | extsbRc rA rS => exact resultInto_outcomes _ _ _ _ _ rfl id
  | extsh rA rS => exact resultInto_outcomes _ _ _ _ _ rfl id
  | extshRc rA rS => exact resultInto_outcomes _ _ _ _ _ rfl id
  | cntlzw rA rS => exact resultInto_outcomes _ _ _ _ _ rfl id
  | cntlzwRc rA rS => exact resultInto_outcomes _ _ _ _ _ rfl id
  | rlwinm rA rS sh mb me => exact resultInto_outcomes _ _ _ _ _ rfl id
  | rlwinmRc rA rS sh mb me => exact resultInto_outcomes _ _ _ _ _ rfl id
  | rlwnm rA rS rB mb me => exact resultInto_outcomes _ _ _ _ _ rfl id
  | rlwnmRc rA rS rB mb me => exact resultInto_outcomes _ _ _ _ _ rfl id
  | rlwimi rA rS sh mb me => exact resultInto_outcomes _ _ _ _ _ rfl id
  | rlwimiRc rA rS sh mb me => exact resultInto_outcomes _ _ _ _ _ rfl id
  | slw rA rS rB => exact resultInto_outcomes _ _ _ _ _ rfl id
  | slwRc rA rS rB => exact resultInto_outcomes _ _ _ _ _ rfl id
  | srw rA rS rB => exact resultInto_outcomes _ _ _ _ _ rfl id
  | srwRc rA rS rB => exact resultInto_outcomes _ _ _ _ _ rfl id
  | srawi rA rS sh => exact algebraicInto_outcomes _ _ _ _ _ _ rfl id
  | srawiRc rA rS sh => exact algebraicInto_outcomes _ _ _ _ _ _ rfl id
  | sraw rA rS rB => exact algebraicInto_outcomes _ _ _ _ _ _ rfl id
  | srawRc rA rS rB => exact algebraicInto_outcomes _ _ _ _ _ _ rfl id
  | sc => exact takeException_outcomes _ _ _ rfl
  | twi trapOn rA simm => exact trapWhen_outcomes _ _ _ rfl id
  | tw trapOn rA rB => exact trapWhen_outcomes _ _ _ rfl id

/-- A next state is an effect that fits. -/
theorem exec_next (i : Instr) (s t : State) (h : exec i s = .next t) : t.mem = s.mem ∧ ∃ e : Effect, e.Holds s t ∧ e.Fits i s := by
  have := exec_outcomes i s; rwa [h] at this

/-- A fault is the exception of the instruction, or a term that is no valid form. -/
theorem exec_fault (i : Instr) (s : State) (f : Fault) (h : exec i s = .fault f) :
    (∃ k, (footprint i).raises = some k ∧ f = .exception (s.exceptionRecord k)) ∨
    (i.wellFormed = false ∧ f = .invalidForm s.pc (encode i)) := by
  have := exec_outcomes i s; rwa [h] at this

/-- No instruction is refused. -/
theorem exec_ne_refused (i : Instr) (s : State) (r : Refusal) : exec i s ≠ .refused r := by
  intro h; have := exec_outcomes i s; rwa [h] at this

end Sys2Proof.Machine
end

