-- ==== Sys2Proof/Laws/PerInstr.lean ====
section
/-! SUPPORT. Per instruction: the word of a well-formed instruction has the bits that its row of spec/opcode_table.json
fixes. -/

namespace Sys2Proof

/-- The fixed bits of an instruction's row in spec/opcode_table.json: highest bit, lowest bit (bit 0 the least
significant), value. -/
def tableFixed : Instr → List (Nat × Nat × Nat)
  | .addi _ _ _ => [(31, 26, 14)]
  | .addis _ _ _ => [(31, 26, 15)]
  | .add _ _ _ => [(10, 0, 532), (31, 26, 31)]
  | .addRc _ _ _ => [(10, 0, 533), (31, 26, 31)]
  | .addo _ _ _ => [(10, 0, 1556), (31, 26, 31)]
  | .addoRc _ _ _ => [(10, 0, 1557), (31, 26, 31)]
  | .subf _ _ _ => [(10, 0, 80), (31, 26, 31)]
  | .subfRc _ _ _ => [(10, 0, 81), (31, 26, 31)]
  | .subfo _ _ _ => [(10, 0, 1104), (31, 26, 31)]
  | .subfoRc _ _ _ => [(10, 0, 1105), (31, 26, 31)]
  | .addic _ _ _ => [(31, 26, 12)]
  | .addicRc _ _ _ => [(31, 26, 13)]
  | .subfic _ _ _ => [(31, 26, 8)]
  | .addc _ _ _ => [(10, 0, 20), (31, 26, 31)]
  | .addcRc _ _ _ => [(10, 0, 21), (31, 26, 31)]
  | .addco _ _ _ => [(10, 0, 1044), (31, 26, 31)]
  | .addcoRc _ _ _ => [(10, 0, 1045), (31, 26, 31)]
  | .subfc _ _ _ => [(10, 0, 16), (31, 26, 31)]
  | .subfcRc _ _ _ => [(10, 0, 17), (31, 26, 31)]
  | .subfco _ _ _ => [(10, 0, 1040), (31, 26, 31)]
  | .subfcoRc _ _ _ => [(10, 0, 1041), (31, 26, 31)]
  | .adde _ _ _ => [(10, 0, 276), (31, 26, 31)]
  | .addeRc _ _ _ => [(10, 0, 277), (31, 26, 31)]
  | .addeo _ _ _ => [(10, 0, 1300), (31, 26, 31)]
  | .addeoRc _ _ _ => [(10, 0, 1301), (31, 26, 31)]
  | .subfe _ _ _ => [(10, 0, 272), (31, 26, 31)]
  | .subfeRc _ _ _ => [(10, 0, 273), (31, 26, 31)]
  | .subfeo _ _ _ => [(10, 0, 1296), (31, 26, 31)]
  | .subfeoRc _ _ _ => [(10, 0, 1297), (31, 26, 31)]
  | .addme _ _ => [(15, 0, 468), (31, 26, 31)]
  | .addmeRc _ _ => [(15, 0, 469), (31, 26, 31)]
  | .addmeo _ _ => [(15, 0, 1492), (31, 26, 31)]
  | .addmeoRc _ _ => [(15, 0, 1493), (31, 26, 31)]
  | .subfme _ _ => [(15, 0, 464), (31, 26, 31)]
  | .subfmeRc _ _ => [(15, 0, 465), (31, 26, 31)]
  | .subfmeo _ _ => [(15, 0, 1488), (31, 26, 31)]
  | .subfmeoRc _ _ => [(15, 0, 1489), (31, 26, 31)]
  | .addze _ _ => [(15, 0, 404), (31, 26, 31)]
  | .addzeRc _ _ => [(15, 0, 405), (31, 26, 31)]
  | .addzeo _ _ => [(15, 0, 1428), (31, 26, 31)]
  | .addzeoRc _ _ => [(15, 0, 1429), (31, 26, 31)]
  | .subfze _ _ => [(15, 0, 400), (31, 26, 31)]
  | .subfzeRc _ _ => [(15, 0, 401), (31, 26, 31)]
  | .subfzeo _ _ => [(15, 0, 1424), (31, 26, 31)]
  | .subfzeoRc _ _ => [(15, 0, 1425), (31, 26, 31)]
  | .neg _ _ => [(15, 0, 208), (31, 26, 31)]
  | .negRc _ _ => [(15, 0, 209), (31, 26, 31)]
  | .nego _ _ => [(15, 0, 1232), (31, 26, 31)]
  | .negoRc _ _ => [(15, 0, 1233), (31, 26, 31)]
  | .mulli _ _ _ => [(31, 26, 7)]
  | .mullw _ _ _ => [(10, 0, 470), (31, 26, 31)]
  | .mullwRc _ _ _ => [(10, 0, 471), (31, 26, 31)]
  | .mullwo _ _ _ => [(10, 0, 1494), (31, 26, 31)]
  | .mullwoRc _ _ _ => [(10, 0, 1495), (31, 26, 31)]
  | .mulhw _ _ _ => [(10, 0, 150), (31, 26, 31)]
  | .mulhwRc _ _ _ => [(10, 0, 151), (31, 26, 31)]
  | .mulhwu _ _ _ => [(10, 0, 22), (31, 26, 31)]
  | .mulhwuRc _ _ _ => [(10, 0, 23), (31, 26, 31)]
  | .divw _ _ _ => [(10, 0, 982), (31, 26, 31)]
  | .divwRc _ _ _ => [(10, 0, 983), (31, 26, 31)]
  | .divwo _ _ _ => [(10, 0, 2006), (31, 26, 31)]
  | .divwoRc _ _ _ => [(10, 0, 2007), (31, 26, 31)]
  | .divwu _ _ _ => [(10, 0, 918), (31, 26, 31)]
  | .divwuRc _ _ _ => [(10, 0, 919), (31, 26, 31)]
  | .divwuo _ _ _ => [(10, 0, 1942), (31, 26, 31)]
  | .divwuoRc _ _ _ => [(10, 0, 1943), (31, 26, 31)]
  | .cmpi _ _ _ _ => [(22, 21, 0), (31, 26, 11)]
  | .cmp _ _ _ _ => [(10, 0, 0), (22, 21, 0), (31, 26, 31)]
  | .cmpli _ _ _ _ => [(22, 21, 0), (31, 26, 10)]
  | .cmpl _ _ _ _ => [(10, 0, 64), (22, 21, 0), (31, 26, 31)]
  | .andiRc _ _ _ => [(31, 26, 28)]
  | .andisRc _ _ _ => [(31, 26, 29)]
  | .ori _ _ _ => [(31, 26, 24)]
  | .oris _ _ _ => [(31, 26, 25)]
  | .xori _ _ _ => [(31, 26, 26)]
  | .xoris _ _ _ => [(31, 26, 27)]
  | .and _ _ _ => [(10, 0, 56), (31, 26, 31)]
  | .andRc _ _ _ => [(10, 0, 57), (31, 26, 31)]
  | .or _ _ _ => [(10, 0, 888), (31, 26, 31)]
  | .orRc _ _ _ => [(10, 0, 889), (31, 26, 31)]
  | .xor _ _ _ => [(10, 0, 632), (31, 26, 31)]
  | .xorRc _ _ _ => [(10, 0, 633), (31, 26, 31)]
  | .nand _ _ _ => [(10, 0, 952), (31, 26, 31)]
  | .nandRc _ _ _ => [(10, 0, 953), (31, 26, 31)]
  | .nor _ _ _ => [(10, 0, 248), (31, 26, 31)]
  | .norRc _ _ _ => [(10, 0, 249), (31, 26, 31)]
  | .eqv _ _ _ => [(10, 0, 568), (31, 26, 31)]
  | .eqvRc _ _ _ => [(10, 0, 569), (31, 26, 31)]
  | .andc _ _ _ => [(10, 0, 120), (31, 26, 31)]
  | .andcRc _ _ _ => [(10, 0, 121), (31, 26, 31)]
  | .orc _ _ _ => [(10, 0, 824), (31, 26, 31)]
  | .orcRc _ _ _ => [(10, 0, 825), (31, 26, 31)]
  | .extsb _ _ => [(15, 0, 1908), (31, 26, 31)]
  | .extsbRc _ _ => [(15, 0, 1909), (31, 26, 31)]
  | .extsh _ _ => [(15, 0, 1844), (31, 26, 31)]
  | .extshRc _ _ => [(15, 0, 1845), (31, 26, 31)]
  | .cntlzw _ _ => [(15, 0, 52), (31, 26, 31)]
  | .cntlzwRc _ _ => [(15, 0, 53), (31, 26, 31)]
  | .rlwinm _ _ _ _ _ => [(0, 0, 0), (31, 26, 21)]
  | .rlwinmRc _ _ _ _ _ => [(0, 0, 1), (31, 26, 21)]
  | .rlwnm _ _ _ _ _ => [(0, 0, 0), (31, 26, 23)]
  | .rlwnmRc _ _ _ _ _ => [(0, 0, 1), (31, 26, 23)]
  | .rlwimi _ _ _ _ _ => [(0, 0, 0), (31, 26, 20)]
  | .rlwimiRc _ _ _ _ _ => [(0, 0, 1), (31, 26, 20)]
  | .slw _ _ _ => [(10, 0, 48), (31, 26, 31)]
  | .slwRc _ _ _ => [(10, 0, 49), (31, 26, 31)]
  | .srw _ _ _ => [(10, 0, 1072), (31, 26, 31)]
  | .srwRc _ _ _ => [(10, 0, 1073), (31, 26, 31)]
  | .srawi _ _ _ => [(10, 0, 1648), (31, 26, 31)]
  | .srawiRc _ _ _ => [(10, 0, 1649), (31, 26, 31)]
  | .sraw _ _ _ => [(10, 0, 1584), (31, 26, 31)]
  | .srawRc _ _ _ => [(10, 0, 1585), (31, 26, 31)]
  | .sc => [(31, 0, 1140850690)]
  | .twi _ _ _ => [(31, 26, 3)]
  | .tw _ _ _ => [(10, 0, 8), (31, 26, 31)]

/-- A word has the fixed bits of a row. -/
def HasFixed (w : Word) (row : List (Nat × Nat × Nat)) : Prop :=
  ∀ f ∈ row, w.toNat / 2 ^ f.2.1 % 2 ^ (f.1 + 1 - f.2.1) = f.2.2

/-- One field. -/
theorem hasFixed_one (w : Word) (a b v : Nat) (h : w.toNat / 2 ^ b % 2 ^ (a + 1 - b) = v) : HasFixed w [(a, b, v)] := by
  simpa [HasFixed] using h

/-- One field more. -/
theorem hasFixed_cons (w : Word) (a b v : Nat) (row : List (Nat × Nat × Nat))
    (h : w.toNat / 2 ^ b % 2 ^ (a + 1 - b) = v) (hr : HasFixed w row) : HasFixed w ((a, b, v) :: row) :=
  List.forall_mem_cons.2 ⟨h, hr⟩

theorem dForm_fixed (op : BitVec 6) (d a : Reg) (imm : BitVec 16) :
    HasFixed (dForm op d a imm) [(31, 26, op.toNat)] := by
  have := op.isLt; have := d.isLt; have := a.isLt; have := imm.isLt
  apply hasFixed_one; rw [dForm_toNat]; omega

theorem dTrapForm_fixed (op : BitVec 6) (trapOn : BitVec 5) (a : Reg) (imm : BitVec 16) :
    HasFixed (dTrapForm op trapOn a imm) [(31, 26, op.toNat)] := by
  have := op.isLt; have := trapOn.isLt; have := a.isLt; have := imm.isLt
  apply hasFixed_one; rw [dTrapForm_toNat]; omega

theorem dCompareForm_fixed (op : BitVec 6) (k : CrIndex) (a : Reg) (imm : BitVec 16) :
    HasFixed (dCompareForm op k false a imm) [(22, 21, 0), (31, 26, op.toNat)] := by
  have := op.isLt; have := k.isLt; have := a.isLt; have := imm.isLt
  apply hasFixed_cons
  · rw [dCompareForm_toNat]; simp only [Bool.toNat_false]; omega
  · apply hasFixed_one; rw [dCompareForm_toNat]; simp only [Bool.toNat_false]; omega

theorem xoForm_fixed (d a b : Reg) (oe : Bool) (xo : BitVec 9) (rc : Bool) :
    HasFixed (xoForm d a b oe xo rc) [(10, 0, oe.toNat * 1024 + xo.toNat * 2 + rc.toNat), (31, 26, 31)] := by
  have := d.isLt; have := a.isLt; have := b.isLt; have := xo.isLt; have := oe.toNat_lt; have := rc.toNat_lt
  apply hasFixed_cons
  · rw [xoForm_toNat]; omega
  · apply hasFixed_one; rw [xoForm_toNat]; omega

theorem xoForm_fixed_noB (d a : Reg) (oe : Bool) (xo : BitVec 9) (rc : Bool) :
    HasFixed (xoForm d a 0 oe xo rc) [(15, 0, oe.toNat * 1024 + xo.toNat * 2 + rc.toNat), (31, 26, 31)] := by
  have := d.isLt; have := a.isLt; have := xo.isLt; have := oe.toNat_lt; have := rc.toNat_lt
  apply hasFixed_cons
  · rw [xoForm_toNat, Fin.val_zero]; omega
  · apply hasFixed_one; rw [xoForm_toNat, Fin.val_zero]; omega

theorem xForm_fixed (s a b : Fin 32) (xo : BitVec 10) (rc : Bool) :
    HasFixed (xForm s a b xo rc) [(10, 0, xo.toNat * 2 + rc.toNat), (31, 26, 31)] := by
  have := s.isLt; have := a.isLt; have := b.isLt; have := xo.isLt; have := rc.toNat_lt
  apply hasFixed_cons
  · rw [xForm_toNat]; omega
  · apply hasFixed_one; rw [xForm_toNat]; omega

theorem xForm_fixed_noB (s a : Fin 32) (xo : BitVec 10) (rc : Bool) :
    HasFixed (xForm s a 0 xo rc) [(15, 0, xo.toNat * 2 + rc.toNat), (31, 26, 31)] := by
  have := s.isLt; have := a.isLt; have := xo.isLt; have := rc.toNat_lt
  apply hasFixed_cons
  · rw [xForm_toNat, Fin.val_zero]; omega
  · apply hasFixed_one; rw [xForm_toNat, Fin.val_zero]; omega

theorem xCompareForm_fixed (k : CrIndex) (a b : Reg) (xo : BitVec 10) :
    HasFixed (xCompareForm k false a b xo) [(10, 0, xo.toNat * 2), (22, 21, 0), (31, 26, 31)] := by
  have := k.isLt; have := a.isLt; have := b.isLt; have := xo.isLt
  apply hasFixed_cons
  · rw [xCompareForm_toNat, Bool.toNat_false]; omega
  · apply hasFixed_cons
    · rw [xCompareForm_toNat, Bool.toNat_false]; omega
    · apply hasFixed_one; rw [xCompareForm_toNat, Bool.toNat_false]; omega

theorem xTrapForm_fixed (trapOn : BitVec 5) (a b : Reg) (xo : BitVec 10) :
    HasFixed (xTrapForm trapOn a b xo) [(10, 0, xo.toNat * 2), (31, 26, 31)] := by
  have := trapOn.isLt; have := a.isLt; have := b.isLt; have := xo.isLt
  apply hasFixed_cons
  · rw [xTrapForm_toNat]; omega
  · apply hasFixed_one; rw [xTrapForm_toNat]; omega

theorem mForm_fixed (op : BitVec 6) (s a b mb me : Fin 32) (rc : Bool) :
    HasFixed (mForm op s a b mb me rc) [(0, 0, rc.toNat), (31, 26, op.toNat)] := by
  have := op.isLt; have := s.isLt; have := a.isLt; have := b.isLt; have := mb.isLt; have := me.isLt
  have := rc.toNat_lt
  apply hasFixed_cons
  · rw [mForm_toNat]; omega
  · apply hasFixed_one; rw [mForm_toNat]; omega

/-- A well-formed compare has L = 0. -/
theorem l_eq_false {l : Bool} (h : (!l) = true) : l = false := by simpa using h

end Sys2Proof

/-- The word of a well-formed instruction matches its row of the opcode table. -/
def Sys2Proof.Laws.TableRow.Statement (i : Sys2Proof.Instr) : Prop :=
  i.wellFormed = true → Sys2Proof.HasFixed (Sys2Proof.encode i) (Sys2Proof.tableFixed i)

namespace Sys2Proof.Laws.TableRow

open Sys2Proof

theorem addi (rD rA : Reg) (simm : BitVec 16) : Statement (.addi rD rA simm) := fun _ => dForm_fixed _ _ _ _
theorem addis (rD rA : Reg) (simm : BitVec 16) : Statement (.addis rD rA simm) := fun _ => dForm_fixed _ _ _ _
theorem add (rD rA rB : Reg) : Statement (.add rD rA rB) := fun _ => xoForm_fixed _ _ _ _ _ _
theorem addRc (rD rA rB : Reg) : Statement (.addRc rD rA rB) := fun _ => xoForm_fixed _ _ _ _ _ _
theorem addo (rD rA rB : Reg) : Statement (.addo rD rA rB) := fun _ => xoForm_fixed _ _ _ _ _ _
theorem addoRc (rD rA rB : Reg) : Statement (.addoRc rD rA rB) := fun _ => xoForm_fixed _ _ _ _ _ _
theorem subf (rD rA rB : Reg) : Statement (.subf rD rA rB) := fun _ => xoForm_fixed _ _ _ _ _ _
theorem subfRc (rD rA rB : Reg) : Statement (.subfRc rD rA rB) := fun _ => xoForm_fixed _ _ _ _ _ _
theorem subfo (rD rA rB : Reg) : Statement (.subfo rD rA rB) := fun _ => xoForm_fixed _ _ _ _ _ _
theorem subfoRc (rD rA rB : Reg) : Statement (.subfoRc rD rA rB) := fun _ => xoForm_fixed _ _ _ _ _ _
theorem addic (rD rA : Reg) (simm : BitVec 16) : Statement (.addic rD rA simm) := fun _ => dForm_fixed _ _ _ _
theorem addicRc (rD rA : Reg) (simm : BitVec 16) : Statement (.addicRc rD rA simm) := fun _ => dForm_fixed _ _ _ _
theorem subfic (rD rA : Reg) (simm : BitVec 16) : Statement (.subfic rD rA simm) := fun _ => dForm_fixed _ _ _ _
theorem addc (rD rA rB : Reg) : Statement (.addc rD rA rB) := fun _ => xoForm_fixed _ _ _ _ _ _
theorem addcRc (rD rA rB : Reg) : Statement (.addcRc rD rA rB) := fun _ => xoForm_fixed _ _ _ _ _ _
theorem addco (rD rA rB : Reg) : Statement (.addco rD rA rB) := fun _ => xoForm_fixed _ _ _ _ _ _
theorem addcoRc (rD rA rB : Reg) : Statement (.addcoRc rD rA rB) := fun _ => xoForm_fixed _ _ _ _ _ _
theorem subfc (rD rA rB : Reg) : Statement (.subfc rD rA rB) := fun _ => xoForm_fixed _ _ _ _ _ _
theorem subfcRc (rD rA rB : Reg) : Statement (.subfcRc rD rA rB) := fun _ => xoForm_fixed _ _ _ _ _ _
theorem subfco (rD rA rB : Reg) : Statement (.subfco rD rA rB) := fun _ => xoForm_fixed _ _ _ _ _ _
theorem subfcoRc (rD rA rB : Reg) : Statement (.subfcoRc rD rA rB) := fun _ => xoForm_fixed _ _ _ _ _ _
theorem adde (rD rA rB : Reg) : Statement (.adde rD rA rB) := fun _ => xoForm_fixed _ _ _ _ _ _
theorem addeRc (rD rA rB : Reg) : Statement (.addeRc rD rA rB) := fun _ => xoForm_fixed _ _ _ _ _ _
theorem addeo (rD rA rB : Reg) : Statement (.addeo rD rA rB) := fun _ => xoForm_fixed _ _ _ _ _ _
theorem addeoRc (rD rA rB : Reg) : Statement (.addeoRc rD rA rB) := fun _ => xoForm_fixed _ _ _ _ _ _
theorem subfe (rD rA rB : Reg) : Statement (.subfe rD rA rB) := fun _ => xoForm_fixed _ _ _ _ _ _
theorem subfeRc (rD rA rB : Reg) : Statement (.subfeRc rD rA rB) := fun _ => xoForm_fixed _ _ _ _ _ _
theorem subfeo (rD rA rB : Reg) : Statement (.subfeo rD rA rB) := fun _ => xoForm_fixed _ _ _ _ _ _
theorem subfeoRc (rD rA rB : Reg) : Statement (.subfeoRc rD rA rB) := fun _ => xoForm_fixed _ _ _ _ _ _
theorem addme (rD rA : Reg) : Statement (.addme rD rA) := fun _ => xoForm_fixed_noB _ _ _ _ _
theorem addmeRc (rD rA : Reg) : Statement (.addmeRc rD rA) := fun _ => xoForm_fixed_noB _ _ _ _ _
theorem addmeo (rD rA : Reg) : Statement (.addmeo rD rA) := fun _ => xoForm_fixed_noB _ _ _ _ _
theorem addmeoRc (rD rA : Reg) : Statement (.addmeoRc rD rA) := fun _ => xoForm_fixed_noB _ _ _ _ _
theorem subfme (rD rA : Reg) : Statement (.subfme rD rA) := fun _ => xoForm_fixed_noB _ _ _ _ _
theorem subfmeRc (rD rA : Reg) : Statement (.subfmeRc rD rA) := fun _ => xoForm_fixed_noB _ _ _ _ _
theorem subfmeo (rD rA : Reg) : Statement (.subfmeo rD rA) := fun _ => xoForm_fixed_noB _ _ _ _ _
theorem subfmeoRc (rD rA : Reg) : Statement (.subfmeoRc rD rA) := fun _ => xoForm_fixed_noB _ _ _ _ _
theorem addze (rD rA : Reg) : Statement (.addze rD rA) := fun _ => xoForm_fixed_noB _ _ _ _ _
theorem addzeRc (rD rA : Reg) : Statement (.addzeRc rD rA) := fun _ => xoForm_fixed_noB _ _ _ _ _
theorem addzeo (rD rA : Reg) : Statement (.addzeo rD rA) := fun _ => xoForm_fixed_noB _ _ _ _ _
theorem addzeoRc (rD rA : Reg) : Statement (.addzeoRc rD rA) := fun _ => xoForm_fixed_noB _ _ _ _ _
theorem subfze (rD rA : Reg) : Statement (.subfze rD rA) := fun _ => xoForm_fixed_noB _ _ _ _ _
theorem subfzeRc (rD rA : Reg) : Statement (.subfzeRc rD rA) := fun _ => xoForm_fixed_noB _ _ _ _ _
theorem subfzeo (rD rA : Reg) : Statement (.subfzeo rD rA) := fun _ => xoForm_fixed_noB _ _ _ _ _
theorem subfzeoRc (rD rA : Reg) : Statement (.subfzeoRc rD rA) := fun _ => xoForm_fixed_noB _ _ _ _ _
theorem neg (rD rA : Reg) : Statement (.neg rD rA) := fun _ => xoForm_fixed_noB _ _ _ _ _
theorem negRc (rD rA : Reg) : Statement (.negRc rD rA) := fun _ => xoForm_fixed_noB _ _ _ _ _
theorem nego (rD rA : Reg) : Statement (.nego rD rA) := fun _ => xoForm_fixed_noB _ _ _ _ _
theorem negoRc (rD rA : Reg) : Statement (.negoRc rD rA) := fun _ => xoForm_fixed_noB _ _ _ _ _
theorem mulli (rD rA : Reg) (simm : BitVec 16) : Statement (.mulli rD rA simm) := fun _ => dForm_fixed _ _ _ _
theorem mullw (rD rA rB : Reg) : Statement (.mullw rD rA rB) := fun _ => xoForm_fixed _ _ _ _ _ _
theorem mullwRc (rD rA rB : Reg) : Statement (.mullwRc rD rA rB) := fun _ => xoForm_fixed _ _ _ _ _ _
theorem mullwo (rD rA rB : Reg) : Statement (.mullwo rD rA rB) := fun _ => xoForm_fixed _ _ _ _ _ _
theorem mullwoRc (rD rA rB : Reg) : Statement (.mullwoRc rD rA rB) := fun _ => xoForm_fixed _ _ _ _ _ _
theorem mulhw (rD rA rB : Reg) : Statement (.mulhw rD rA rB) := fun _ => xoForm_fixed _ _ _ _ _ _
theorem mulhwRc (rD rA rB : Reg) : Statement (.mulhwRc rD rA rB) := fun _ => xoForm_fixed _ _ _ _ _ _
theorem mulhwu (rD rA rB : Reg) : Statement (.mulhwu rD rA rB) := fun _ => xoForm_fixed _ _ _ _ _ _
theorem mulhwuRc (rD rA rB : Reg) : Statement (.mulhwuRc rD rA rB) := fun _ => xoForm_fixed _ _ _ _ _ _
theorem divw (rD rA rB : Reg) : Statement (.divw rD rA rB) := fun _ => xoForm_fixed _ _ _ _ _ _
theorem divwRc (rD rA rB : Reg) : Statement (.divwRc rD rA rB) := fun _ => xoForm_fixed _ _ _ _ _ _
theorem divwo (rD rA rB : Reg) : Statement (.divwo rD rA rB) := fun _ => xoForm_fixed _ _ _ _ _ _
theorem divwoRc (rD rA rB : Reg) : Statement (.divwoRc rD rA rB) := fun _ => xoForm_fixed _ _ _ _ _ _
theorem divwu (rD rA rB : Reg) : Statement (.divwu rD rA rB) := fun _ => xoForm_fixed _ _ _ _ _ _
theorem divwuRc (rD rA rB : Reg) : Statement (.divwuRc rD rA rB) := fun _ => xoForm_fixed _ _ _ _ _ _
theorem divwuo (rD rA rB : Reg) : Statement (.divwuo rD rA rB) := fun _ => xoForm_fixed _ _ _ _ _ _
theorem divwuoRc (rD rA rB : Reg) : Statement (.divwuoRc rD rA rB) := fun _ => xoForm_fixed _ _ _ _ _ _
theorem cmpi (crfD : CrIndex) (l : Bool) (rA : Reg) (simm : BitVec 16) : Statement (.cmpi crfD l rA simm) := fun h => by
  cases l_eq_false h; exact dCompareForm_fixed _ _ _ _
theorem cmp (crfD : CrIndex) (l : Bool) (rA rB : Reg) : Statement (.cmp crfD l rA rB) := fun h => by
  cases l_eq_false h; exact xCompareForm_fixed _ _ _ _
theorem cmpli (crfD : CrIndex) (l : Bool) (rA : Reg) (uimm : BitVec 16) : Statement (.cmpli crfD l rA uimm) := fun h => by
  cases l_eq_false h; exact dCompareForm_fixed _ _ _ _
theorem cmpl (crfD : CrIndex) (l : Bool) (rA rB : Reg) : Statement (.cmpl crfD l rA rB) := fun h => by
  cases l_eq_false h; exact xCompareForm_fixed _ _ _ _
theorem andiRc (rA rS : Reg) (uimm : BitVec 16) : Statement (.andiRc rA rS uimm) := fun _ => dForm_fixed _ _ _ _
theorem andisRc (rA rS : Reg) (uimm : BitVec 16) : Statement (.andisRc rA rS uimm) := fun _ => dForm_fixed _ _ _ _
theorem ori (rA rS : Reg) (uimm : BitVec 16) : Statement (.ori rA rS uimm) := fun _ => dForm_fixed _ _ _ _
theorem oris (rA rS : Reg) (uimm : BitVec 16) : Statement (.oris rA rS uimm) := fun _ => dForm_fixed _ _ _ _
theorem xori (rA rS : Reg) (uimm : BitVec 16) : Statement (.xori rA rS uimm) := fun _ => dForm_fixed _ _ _ _
theorem xoris (rA rS : Reg) (uimm : BitVec 16) : Statement (.xoris rA rS uimm) := fun _ => dForm_fixed _ _ _ _
theorem and (rA rS rB : Reg) : Statement (.and rA rS rB) := fun _ => xForm_fixed _ _ _ _ _
theorem andRc (rA rS rB : Reg) : Statement (.andRc rA rS rB) := fun _ => xForm_fixed _ _ _ _ _
theorem or (rA rS rB : Reg) : Statement (.or rA rS rB) := fun _ => xForm_fixed _ _ _ _ _
theorem orRc (rA rS rB : Reg) : Statement (.orRc rA rS rB) := fun _ => xForm_fixed _ _ _ _ _
theorem xor (rA rS rB : Reg) : Statement (.xor rA rS rB) := fun _ => xForm_fixed _ _ _ _ _
theorem xorRc (rA rS rB : Reg) : Statement (.xorRc rA rS rB) := fun _ => xForm_fixed _ _ _ _ _
theorem nand (rA rS rB : Reg) : Statement (.nand rA rS rB) := fun _ => xForm_fixed _ _ _ _ _
theorem nandRc (rA rS rB : Reg) : Statement (.nandRc rA rS rB) := fun _ => xForm_fixed _ _ _ _ _
theorem nor (rA rS rB : Reg) : Statement (.nor rA rS rB) := fun _ => xForm_fixed _ _ _ _ _
theorem norRc (rA rS rB : Reg) : Statement (.norRc rA rS rB) := fun _ => xForm_fixed _ _ _ _ _
theorem eqv (rA rS rB : Reg) : Statement (.eqv rA rS rB) := fun _ => xForm_fixed _ _ _ _ _
theorem eqvRc (rA rS rB : Reg) : Statement (.eqvRc rA rS rB) := fun _ => xForm_fixed _ _ _ _ _
theorem andc (rA rS rB : Reg) : Statement (.andc rA rS rB) := fun _ => xForm_fixed _ _ _ _ _
theorem andcRc (rA rS rB : Reg) : Statement (.andcRc rA rS rB) := fun _ => xForm_fixed _ _ _ _ _
theorem orc (rA rS rB : Reg) : Statement (.orc rA rS rB) := fun _ => xForm_fixed _ _ _ _ _
theorem orcRc (rA rS rB : Reg) : Statement (.orcRc rA rS rB) := fun _ => xForm_fixed _ _ _ _ _
theorem extsb (rA rS : Reg) : Statement (.extsb rA rS) := fun _ => xForm_fixed_noB _ _ _ _
theorem extsbRc (rA rS : Reg) : Statement (.extsbRc rA rS) := fun _ => xForm_fixed_noB _ _ _ _
theorem extsh (rA rS : Reg) : Statement (.extsh rA rS) := fun _ => xForm_fixed_noB _ _ _ _
theorem extshRc (rA rS : Reg) : Statement (.extshRc rA rS) := fun _ => xForm_fixed_noB _ _ _ _
theorem cntlzw (rA rS : Reg) : Statement (.cntlzw rA rS) := fun _ => xForm_fixed_noB _ _ _ _
theorem cntlzwRc (rA rS : Reg) : Statement (.cntlzwRc rA rS) := fun _ => xForm_fixed_noB _ _ _ _
theorem rlwinm (rA rS : Reg) (sh mb me : BitPos) : Statement (.rlwinm rA rS sh mb me) := fun _ => mForm_fixed _ _ _ _ _ _ _
theorem rlwinmRc (rA rS : Reg) (sh mb me : BitPos) : Statement (.rlwinmRc rA rS sh mb me) := fun _ => mForm_fixed _ _ _ _ _ _ _
theorem rlwnm (rA rS rB : Reg) (mb me : BitPos) : Statement (.rlwnm rA rS rB mb me) := fun _ => mForm_fixed _ _ _ _ _ _ _
theorem rlwnmRc (rA rS rB : Reg) (mb me : BitPos) : Statement (.rlwnmRc rA rS rB mb me) := fun _ => mForm_fixed _ _ _ _ _ _ _
theorem rlwimi (rA rS : Reg) (sh mb me : BitPos) : Statement (.rlwimi rA rS sh mb me) := fun _ => mForm_fixed _ _ _ _ _ _ _
theorem rlwimiRc (rA rS : Reg) (sh mb me : BitPos) : Statement (.rlwimiRc rA rS sh mb me) := fun _ => mForm_fixed _ _ _ _ _ _ _
theorem slw (rA rS rB : Reg) : Statement (.slw rA rS rB) := fun _ => xForm_fixed _ _ _ _ _
theorem slwRc (rA rS rB : Reg) : Statement (.slwRc rA rS rB) := fun _ => xForm_fixed _ _ _ _ _
theorem srw (rA rS rB : Reg) : Statement (.srw rA rS rB) := fun _ => xForm_fixed _ _ _ _ _
theorem srwRc (rA rS rB : Reg) : Statement (.srwRc rA rS rB) := fun _ => xForm_fixed _ _ _ _ _
theorem srawi (rA rS : Reg) (sh : BitPos) : Statement (.srawi rA rS sh) := fun _ => xForm_fixed _ _ _ _ _
theorem srawiRc (rA rS : Reg) (sh : BitPos) : Statement (.srawiRc rA rS sh) := fun _ => xForm_fixed _ _ _ _ _
theorem sraw (rA rS rB : Reg) : Statement (.sraw rA rS rB) := fun _ => xForm_fixed _ _ _ _ _
theorem srawRc (rA rS rB : Reg) : Statement (.srawRc rA rS rB) := fun _ => xForm_fixed _ _ _ _ _
theorem sc : Statement .sc := fun _ => hasFixed_one _ _ _ _ rfl
theorem twi (trapOn : BitVec 5) (rA : Reg) (simm : BitVec 16) : Statement (.twi trapOn rA simm) := fun _ => dTrapForm_fixed _ _ _ _
theorem tw (trapOn : BitVec 5) (rA rB : Reg) : Statement (.tw trapOn rA rB) := fun _ => xTrapForm_fixed _ _ _ _

end Sys2Proof.Laws.TableRow
end

