-- ==== Sys2Proof/Tests/Slice0.lean ====
section
/-! SUPPORT. Tests: the well-formedness checks, decoding of written-out words, one-step tests with the numbers of
spec/95_test_vectors.md, and for each statement with hypotheses a witness that meets them. -/

open Sys2Proof Sys2Proof.Machine

namespace Sys2Proof.Tests

/-! ## Well-formedness: a compare with L = 1 is refused (R61), with L = 0 it is not -/

theorem test_wellFormed_cmpi : (Instr.cmpi 0 true 3 0).wellFormed = false ∧ (Instr.cmpi 0 false 3 0).wellFormed = true := by decide
theorem test_wellFormed_cmp : (Instr.cmp 0 true 3 4).wellFormed = false ∧ (Instr.cmp 0 false 3 4).wellFormed = true := by decide
theorem test_wellFormed_cmpli : (Instr.cmpli 1 true 3 5).wellFormed = false ∧ (Instr.cmpli 1 false 3 5).wellFormed = true := by decide
theorem test_wellFormed_cmpl : (Instr.cmpl 0 true 3 4).wellFormed = false ∧ (Instr.cmpl 0 false 3 4).wellFormed = true := by decide

/-! ## Decoding

The words are the `match` patterns of spec/opcode_table.json with the operands in the fields of R46: target 3, sources 4
and 5, SH 1, MB 2, ME 30, crfD 6, TO 18, the immediate 0x8001. -/

theorem test_decode_add_immediate :
    decodeWord 0x38648001 = .instr (.addi 3 4 0x8001) ∧
    decodeWord 0x3C648001 = .instr (.addis 3 4 0x8001) ∧
    decodeWord 0x30648001 = .instr (.addic 3 4 0x8001) ∧
    decodeWord 0x34648001 = .instr (.addicRc 3 4 0x8001) ∧
    decodeWord 0x20648001 = .instr (.subfic 3 4 0x8001) ∧
    decodeWord 0x1C648001 = .instr (.mulli 3 4 0x8001) := by
  decide

theorem test_decode_add :
    decodeWord 0x7C642A14 = .instr (.add 3 4 5) ∧
    decodeWord 0x7C642A15 = .instr (.addRc 3 4 5) ∧
    decodeWord 0x7C642E14 = .instr (.addo 3 4 5) ∧
    decodeWord 0x7C642E15 = .instr (.addoRc 3 4 5) ∧
    decodeWord 0x7C642814 = .instr (.addc 3 4 5) ∧
    decodeWord 0x7C642815 = .instr (.addcRc 3 4 5) ∧
    decodeWord 0x7C642C14 = .instr (.addco 3 4 5) ∧
    decodeWord 0x7C642C15 = .instr (.addcoRc 3 4 5) ∧
    decodeWord 0x7C642914 = .instr (.adde 3 4 5) ∧
    decodeWord 0x7C642915 = .instr (.addeRc 3 4 5) ∧
    decodeWord 0x7C642D14 = .instr (.addeo 3 4 5) ∧
    decodeWord 0x7C642D15 = .instr (.addeoRc 3 4 5) := by
  decide

theorem test_decode_subtract :
    decodeWord 0x7C642850 = .instr (.subf 3 4 5) ∧
    decodeWord 0x7C642851 = .instr (.subfRc 3 4 5) ∧
    decodeWord 0x7C642C50 = .instr (.subfo 3 4 5) ∧
    decodeWord 0x7C642C51 = .instr (.subfoRc 3 4 5) ∧
    decodeWord 0x7C642810 = .instr (.subfc 3 4 5) ∧
    decodeWord 0x7C642811 = .instr (.subfcRc 3 4 5) ∧
    decodeWord 0x7C642C10 = .instr (.subfco 3 4 5) ∧
    decodeWord 0x7C642C11 = .instr (.subfcoRc 3 4 5) ∧
    decodeWord 0x7C642910 = .instr (.subfe 3 4 5) ∧
    decodeWord 0x7C642911 = .instr (.subfeRc 3 4 5) ∧
    decodeWord 0x7C642D10 = .instr (.subfeo 3 4 5) ∧
    decodeWord 0x7C642D11 = .instr (.subfeoRc 3 4 5) := by
  decide

theorem test_decode_add_one_operand :
    decodeWord 0x7C6401D4 = .instr (.addme 3 4) ∧
    decodeWord 0x7C6401D5 = .instr (.addmeRc 3 4) ∧
    decodeWord 0x7C6405D4 = .instr (.addmeo 3 4) ∧
    decodeWord 0x7C6405D5 = .instr (.addmeoRc 3 4) ∧
    decodeWord 0x7C640194 = .instr (.addze 3 4) ∧
    decodeWord 0x7C640195 = .instr (.addzeRc 3 4) ∧
    decodeWord 0x7C640594 = .instr (.addzeo 3 4) ∧
    decodeWord 0x7C640595 = .instr (.addzeoRc 3 4) ∧
    decodeWord 0x7C6400D0 = .instr (.neg 3 4) ∧
    decodeWord 0x7C6400D1 = .instr (.negRc 3 4) ∧
    decodeWord 0x7C6404D0 = .instr (.nego 3 4) ∧
    decodeWord 0x7C6404D1 = .instr (.negoRc 3 4) := by
  decide

theorem test_decode_subtract_one_operand :
    decodeWord 0x7C6401D0 = .instr (.subfme 3 4) ∧
    decodeWord 0x7C6401D1 = .instr (.subfmeRc 3 4) ∧
    decodeWord 0x7C6405D0 = .instr (.subfmeo 3 4) ∧
    decodeWord 0x7C6405D1 = .instr (.subfmeoRc 3 4) ∧
    decodeWord 0x7C640190 = .instr (.subfze 3 4) ∧
    decodeWord 0x7C640191 = .instr (.subfzeRc 3 4) ∧
    decodeWord 0x7C640590 = .instr (.subfzeo 3 4) ∧
    decodeWord 0x7C640591 = .instr (.subfzeoRc 3 4) := by
  decide

theorem test_decode_multiply :
    decodeWord 0x7C6429D6 = .instr (.mullw 3 4 5) ∧
    decodeWord 0x7C6429D7 = .instr (.mullwRc 3 4 5) ∧
    decodeWord 0x7C642DD6 = .instr (.mullwo 3 4 5) ∧
    decodeWord 0x7C642DD7 = .instr (.mullwoRc 3 4 5) ∧
    decodeWord 0x7C642896 = .instr (.mulhw 3 4 5) ∧
    decodeWord 0x7C642897 = .instr (.mulhwRc 3 4 5) ∧
    decodeWord 0x7C642816 = .instr (.mulhwu 3 4 5) ∧
    decodeWord 0x7C642817 = .instr (.mulhwuRc 3 4 5) := by
  decide

theorem test_decode_divide :
    decodeWord 0x7C642BD6 = .instr (.divw 3 4 5) ∧
    decodeWord 0x7C642BD7 = .instr (.divwRc 3 4 5) ∧
    decodeWord 0x7C642FD6 = .instr (.divwo 3 4 5) ∧
    decodeWord 0x7C642FD7 = .instr (.divwoRc 3 4 5) ∧
    decodeWord 0x7C642B96 = .instr (.divwu 3 4 5) ∧
    decodeWord 0x7C642B97 = .instr (.divwuRc 3 4 5) ∧
    decodeWord 0x7C642F96 = .instr (.divwuo 3 4 5) ∧
    decodeWord 0x7C642F97 = .instr (.divwuoRc 3 4 5) := by
  decide

theorem test_decode_compare :
    decodeWord 0x2F048001 = .instr (.cmpi 6 false 4 0x8001) ∧
    decodeWord 0x7F042800 = .instr (.cmp 6 false 4 5) ∧
    decodeWord 0x2B048001 = .instr (.cmpli 6 false 4 0x8001) ∧
    decodeWord 0x7F042840 = .instr (.cmpl 6 false 4 5) := by
  decide

theorem test_decode_logical_immediate :
    decodeWord 0x70838001 = .instr (.andiRc 3 4 0x8001) ∧
    decodeWord 0x74838001 = .instr (.andisRc 3 4 0x8001) ∧
    decodeWord 0x60838001 = .instr (.ori 3 4 0x8001) ∧
    decodeWord 0x64838001 = .instr (.oris 3 4 0x8001) ∧
    decodeWord 0x68838001 = .instr (.xori 3 4 0x8001) ∧
    decodeWord 0x6C838001 = .instr (.xoris 3 4 0x8001) := by
  decide

theorem test_decode_logical :
    decodeWord 0x7C832838 = .instr (.and 3 4 5) ∧
    decodeWord 0x7C832839 = .instr (.andRc 3 4 5) ∧
    decodeWord 0x7C832B78 = .instr (.or 3 4 5) ∧
    decodeWord 0x7C832B79 = .instr (.orRc 3 4 5) ∧
    decodeWord 0x7C832A78 = .instr (.xor 3 4 5) ∧
    decodeWord 0x7C832A79 = .instr (.xorRc 3 4 5) ∧
    decodeWord 0x7C832BB8 = .instr (.nand 3 4 5) ∧
    decodeWord 0x7C832BB9 = .instr (.nandRc 3 4 5) ∧
    decodeWord 0x7C8328F8 = .instr (.nor 3 4 5) ∧
    decodeWord 0x7C8328F9 = .instr (.norRc 3 4 5) ∧
    decodeWord 0x7C832A38 = .instr (.eqv 3 4 5) ∧
    decodeWord 0x7C832A39 = .instr (.eqvRc 3 4 5) ∧
    decodeWord 0x7C832878 = .instr (.andc 3 4 5) ∧
    decodeWord 0x7C832879 = .instr (.andcRc 3 4 5) ∧
    decodeWord 0x7C832B38 = .instr (.orc 3 4 5) ∧
    decodeWord 0x7C832B39 = .instr (.orcRc 3 4 5) := by
  decide

theorem test_decode_extend_count :
    decodeWord 0x7C830774 = .instr (.extsb 3 4) ∧
    decodeWord 0x7C830775 = .instr (.extsbRc 3 4) ∧
    decodeWord 0x7C830734 = .instr (.extsh 3 4) ∧
    decodeWord 0x7C830735 = .instr (.extshRc 3 4) ∧
    decodeWord 0x7C830034 = .instr (.cntlzw 3 4) ∧
    decodeWord 0x7C830035 = .instr (.cntlzwRc 3 4) := by
  decide

theorem test_decode_rotate :
    decodeWord 0x548308BC = .instr (.rlwinm 3 4 1 2 30) ∧
    decodeWord 0x548308BD = .instr (.rlwinmRc 3 4 1 2 30) ∧
    decodeWord 0x5C8328BC = .instr (.rlwnm 3 4 5 2 30) ∧
    decodeWord 0x5C8328BD = .instr (.rlwnmRc 3 4 5 2 30) ∧
    decodeWord 0x508308BC = .instr (.rlwimi 3 4 1 2 30) ∧
    decodeWord 0x508308BD = .instr (.rlwimiRc 3 4 1 2 30) := by
  decide

theorem test_decode_shift :
    decodeWord 0x7C832830 = .instr (.slw 3 4 5) ∧
    decodeWord 0x7C832831 = .instr (.slwRc 3 4 5) ∧
    decodeWord 0x7C832C30 = .instr (.srw 3 4 5) ∧
    decodeWord 0x7C832C31 = .instr (.srwRc 3 4 5) ∧
    decodeWord 0x7C830E70 = .instr (.srawi 3 4 1) ∧
    decodeWord 0x7C830E71 = .instr (.srawiRc 3 4 1) ∧
    decodeWord 0x7C832E30 = .instr (.sraw 3 4 5) ∧
    decodeWord 0x7C832E31 = .instr (.srawRc 3 4 5) := by
  decide

theorem test_decode_system_trap :
    decodeWord 0x44000002 = .instr .sc ∧
    decodeWord 0x0E448001 = .instr (.twi 18 4 0x8001) ∧
    decodeWord 0x7E442808 = .instr (.tw 18 4 5) := by
  decide

/-! The same, one word of each family written bit by bit, field after field from bit 0 of the manual (R45 to R51, R56,
R57). -/

/-- `addi r3,r4,-2`: OPCD 14, rD, rA, SIMM. -/
theorem test_bits_addi : decodeWord (0b001110#6 ++ 0b00011#5 ++ 0b00100#5 ++ 0b1111111111111110#16) = .instr (.addi 3 4 0xFFFE) := by decide
/-- `addo. r3,r4,r5`: OPCD 31, rD, rA, rB, OE, XO 266, Rc. -/
theorem test_bits_addoRc : decodeWord (0b011111#6 ++ 0b00011#5 ++ 0b00100#5 ++ 0b00101#5 ++ 1#1 ++ 0b100001010#9 ++ 1#1) = .instr (.addoRc 3 4 5) := by decide
/-- `subfze. r3,r4`: OPCD 31, rD, rA, 0, OE, XO 200, Rc. -/
theorem test_bits_subfzeRc : decodeWord (0b011111#6 ++ 0b00011#5 ++ 0b00100#5 ++ 0#5 ++ 0#1 ++ 0b011001000#9 ++ 1#1) = .instr (.subfzeRc 3 4) := by decide
/-- `mulhwu r3,r4,r5`: OPCD 31, rD, rA, rB, 0, XO 11, Rc. -/
theorem test_bits_mulhwu : decodeWord (0b011111#6 ++ 0b00011#5 ++ 0b00100#5 ++ 0b00101#5 ++ 0#1 ++ 0b000001011#9 ++ 0#1) = .instr (.mulhwu 3 4 5) := by decide
/-- `divwo r3,r4,r5`: OPCD 31, rD, rA, rB, OE, XO 491, Rc. -/
theorem test_bits_divwo : decodeWord (0b011111#6 ++ 0b00011#5 ++ 0b00100#5 ++ 0b00101#5 ++ 1#1 ++ 0b111101011#9 ++ 0#1) = .instr (.divwo 3 4 5) := by decide
/-- `cmpl 6,0,r4,r5`: OPCD 31, crfD, 0, L, rA, rB, XO 32, 0. -/
theorem test_bits_cmpl : decodeWord (0b011111#6 ++ 0b110#3 ++ 0#1 ++ 0#1 ++ 0b00100#5 ++ 0b00101#5 ++ 0b0000100000#10 ++ 0#1) = .instr (.cmpl 6 false 4 5) := by decide
/-- `andis. r3,r4,0x8001`: OPCD 29, rS, rA, UIMM. -/
theorem test_bits_andisRc : decodeWord (0b011101#6 ++ 0b00100#5 ++ 0b00011#5 ++ 0b1000000000000001#16) = .instr (.andisRc 3 4 0x8001) := by decide
/-- `orc. r3,r4,r5`: OPCD 31, rS, rA, rB, XO 412, Rc. -/
theorem test_bits_orcRc : decodeWord (0b011111#6 ++ 0b00100#5 ++ 0b00011#5 ++ 0b00101#5 ++ 0b0110011100#10 ++ 1#1) = .instr (.orcRc 3 4 5) := by decide
/-- `rlwimi. r3,r4,8,24,30`: OPCD 20, rS, rA, SH, MB, ME, Rc. -/
theorem test_bits_rlwimiRc : decodeWord (0b010100#6 ++ 0b00100#5 ++ 0b00011#5 ++ 0b01000#5 ++ 0b11000#5 ++ 0b11110#5 ++ 1#1) = .instr (.rlwimiRc 3 4 8 24 30) := by decide
/-- `srawi r3,r4,31`: OPCD 31, rS, rA, SH, XO 824, Rc. -/
theorem test_bits_srawi : decodeWord (0b011111#6 ++ 0b00100#5 ++ 0b00011#5 ++ 0b11111#5 ++ 0b1100111000#10 ++ 0#1) = .instr (.srawi 3 4 31) := by decide
/-- `sc`: OPCD 17 and bit 30. -/
theorem test_bits_sc : decodeWord (0b010001#6 ++ 0#24 ++ 1#1 ++ 0#1) = .instr .sc := by decide
/-- `tw 24,r3,r4`: OPCD 31, TO, rA, rB, XO 4, 0. -/
theorem test_bits_tw : decodeWord (0b011111#6 ++ 0b11000#5 ++ 0b00011#5 ++ 0b00100#5 ++ 0b0000000100#10 ++ 0#1) = .instr (.tw 24 3 4) := by decide

/-- The invalid forms of spec/95_test_vectors.md section 3. -/
theorem test_decode_invalid_forms :
    decodeWord 0x2C230000 = .invalidForm ∧
    decodeWord 0x2C430000 = .invalidForm ∧
    decodeWord 0x7C232000 = .invalidForm ∧
    decodeWord 0x7C032001 = .invalidForm ∧
    decodeWord 0x28A30005 = .invalidForm ∧
    decodeWord 0x7C232040 = .invalidForm ∧
    decodeWord 0x7C6428D0 = .invalidForm ∧
    decodeWord 0x7C642994 = .invalidForm ∧
    decodeWord 0x7C832834 = .invalidForm ∧
    decodeWord 0x7C832F74 = .invalidForm ∧
    decodeWord 0x7C642C96 = .invalidForm ∧
    decodeWord 0x7C642C16 = .invalidForm ∧
    decodeWord 0x7FE00009 = .invalidForm ∧
    decodeWord 0x44000003 = .invalidForm ∧
    decodeWord 0x44200002 = .invalidForm := by
  decide

/-- The refused words of spec/95_test_vectors.md section 3. -/
theorem test_decode_refused :
    decodeWord 0x44000000 = .refused ∧
    decodeWord 0x00000000 = .refused ∧
    decodeWord 0xFFFFFFFF = .refused ∧
    decodeWord 0x48000000 = .refused ∧
    decodeWord 0x80640000 = .refused ∧
    decodeWord 0x4E800020 = .refused ∧
    decodeWord 0x7C6802A6 = .refused ∧
    decodeWord 0x7C6429D2 = .refused := by
  decide

/-- The table's numbering of bits: one 32-bit word, bit 0 the least significant. -/
theorem test_decodeTableWord : decodeTableWord 32 0x7C642A14 = some (.add 3 4 5) ∧ decodeTableWord 32 0x00000000 = none := by decide

/-! ## One step of each instruction -/

/-- A machine about to run the word `w` at 0x1000, with the given registers, XER and CR. -/
def machine (w : Nat) (regs : List (Reg × Word)) (xer cr : Word) : State :=
  let s : State := { State.reset with pc := 0x1000, xer := xer, cr := cr }
  (regs.foldl (fun s p => s.writeGpr p.1 p.2) s).withFetchWord 32 w

/-- The step completes, with these registers, XER and CR, and the pc has advanced by 4. -/
def gives (s : State) (regs : List (Reg × Word)) (xer cr : Word) : Bool :=
  match step s with
  | .next t => regs.all (fun p => t.readGpr p.1 == p.2) && t.xer == xer && t.cr == cr && t.pc == 0x1004
  | .fault _ => false
  | .refused _ => false

/-- The outcome of the step is this exception, raised at 0x1000. -/
def raises (s : State) (kind : ExceptionKind) (next : Word) : Bool :=
  match step s with
  | .next _ => false
  | .fault f => f == .exception { kind := kind, raisedAt := 0x1000, next := next }
  | .refused _ => false

/-! The numbers are rows of spec/95_test_vectors.md sections 1.1 and 2, computed there outside this model. The 29 opaque
bits of the XER hold 0x01234567. -/

/-- `addi r3,r4,-5` and `addi r3,r4,-5`. -/
theorem test_addi :
    gives (machine 0x3864FFFB [(4, 0x0000000C)] 0x01234567 0x00000000) [(3, 0x00000007)] 0x01234567 0x00000000 = true ∧
    gives (machine 0x3864FFFB [(4, 0x00000003)] 0x01234567 0x00000000) [(3, 0xFFFFFFFE)] 0x01234567 0x00000000 = true := by
  decide

/-- `addis r3,r0,-32768` and `addis r3,r4,-1`. -/
theorem test_addis :
    gives (machine 0x3C608000 [(0, 0x00000007)] 0x01234567 0x00000000) [(3, 0x80000000)] 0x01234567 0x00000000 = true ∧
    gives (machine 0x3C64FFFF [(4, 0x00010000)] 0x01234567 0x00000000) [(3, 0x00000000)] 0x01234567 0x00000000 = true := by
  decide

/-- `addo. r3,r4,r5` and `addo r3,r4,r5`. -/
theorem test_add :
    gives (machine 0x7C642E15 [(4, 0x7FFFFFFF), (5, 0x00000001)] 0x01234567 0x00000000) [(3, 0x80000000)] 0xC1234567 0x90000000 = true ∧
    gives (machine 0x7C642E14 [(4, 0x7FFFFFFF), (5, 0x00000001)] 0x21234567 0x00000000) [(3, 0x80000000)] 0xE1234567 0x00000000 = true := by
  decide

/-- `subfo r3,r4,r5` and `subfo. r3,r4,r4`. -/
theorem test_subf :
    gives (machine 0x7C642C50 [(4, 0x00000001), (5, 0x80000000)] 0x01234567 0x00000000) [(3, 0x7FFFFFFF)] 0xC1234567 0x00000000 = true ∧
    gives (machine 0x7C642451 [(4, 0x80000000)] 0x01234567 0x00000000) [(3, 0x00000000)] 0x01234567 0x20000000 = true := by
  decide

/-- `addic r3,r4,1` and `addic r3,r4,1`. -/
theorem test_addic :
    gives (machine 0x30640001 [(4, 0x00000001)] 0x21234567 0x00000000) [(3, 0x00000002)] 0x01234567 0x00000000 = true ∧
    gives (machine 0x30640001 [(4, 0xFFFFFFFF)] 0x01234567 0x00000000) [(3, 0x00000000)] 0x21234567 0x00000000 = true := by
  decide

/-- `addic. r3,r4,-1` and `addic. r3,r4,0`. -/
theorem test_addicRc :
    gives (machine 0x3464FFFF [(4, 0x00000001)] 0x81234567 0x00000000) [(3, 0x00000000)] 0xA1234567 0x30000000 = true ∧
    gives (machine 0x34640000 [(4, 0x80000000)] 0x21234567 0x00000000) [(3, 0x80000000)] 0x01234567 0x80000000 = true := by
  decide

/-- `subfic r3,r4,-1` and `subfic r3,r4,-32768`. -/
theorem test_subfic :
    gives (machine 0x2064FFFF [(4, 0xFFFFFFFF)] 0x01234567 0x00000000) [(3, 0x00000000)] 0x21234567 0x00000000 = true ∧
    gives (machine 0x20648000 [(4, 0x7FFFFFFF)] 0x01234567 0x00000000) [(3, 0x7FFF8001)] 0x21234567 0x00000000 = true := by
  decide

/-- `addco. r3,r4,r5` and `addc. r3,r4,r5`. -/
theorem test_addc :
    gives (machine 0x7C642C15 [(4, 0x80000000), (5, 0x80000000)] 0x01234567 0x00000000) [(3, 0x00000000)] 0xE1234567 0x30000000 = true ∧
    gives (machine 0x7C642815 [(4, 0xFFFFFFFF), (5, 0x00000002)] 0x81234567 0x00000000) [(3, 0x00000001)] 0xA1234567 0x50000000 = true := by
  decide

/-- `subfco r3,r4,r5` and `subfc r3,r4,r5`. -/
theorem test_subfc :
    gives (machine 0x7C642C10 [(4, 0x80000000), (5, 0x00000000)] 0x01234567 0x00000000) [(3, 0x80000000)] 0xC1234567 0x00000000 = true ∧
    gives (machine 0x7C642810 [(4, 0x00000002), (5, 0x00000001)] 0x21234567 0x00000000) [(3, 0xFFFFFFFF)] 0x01234567 0x00000000 = true := by
  decide

/-- `addeo r3,r4,r5` and `adde r3,r4,r5`. -/
theorem test_adde :
    gives (machine 0x7C642D14 [(4, 0x7FFFFFFF), (5, 0x00000000)] 0x21234567 0x00000000) [(3, 0x80000000)] 0xC1234567 0x00000000 = true ∧
    gives (machine 0x7C642914 [(4, 0x00000001), (5, 0x00000002)] 0x21234567 0x00000000) [(3, 0x00000004)] 0x01234567 0x00000000 = true := by
  decide

/-- `subfeo r3,r4,r5` and `subfe. r3,r4,r5`. -/
theorem test_subfe :
    gives (machine 0x7C642D10 [(4, 0x80000000), (5, 0x00000000)] 0x21234567 0x00000000) [(3, 0x80000000)] 0xC1234567 0x00000000 = true ∧
    gives (machine 0x7C642911 [(4, 0x00000005), (5, 0x00000005)] 0x21234567 0x00000000) [(3, 0x00000000)] 0x21234567 0x20000000 = true := by
  decide

/-- `addmeo r3,r4` and `addmeo. r3,r4`. -/
theorem test_addme :
    gives (machine 0x7C6405D4 [(4, 0x80000000)] 0x01234567 0x00000000) [(3, 0x7FFFFFFF)] 0xE1234567 0x00000000 = true ∧
    gives (machine 0x7C6405D5 [(4, 0x80000000)] 0x21234567 0x00000000) [(3, 0x80000000)] 0x21234567 0x80000000 = true := by
  decide

/-- `subfmeo r3,r4` and `subfme r3,r4`. -/
theorem test_subfme :
    gives (machine 0x7C6405D0 [(4, 0x7FFFFFFF)] 0x01234567 0x00000000) [(3, 0x7FFFFFFF)] 0xE1234567 0x00000000 = true ∧
    gives (machine 0x7C6401D0 [(4, 0x00000000)] 0x01234567 0x00000000) [(3, 0xFFFFFFFE)] 0x21234567 0x00000000 = true := by
  decide

/-- `addzeo. r3,r4` and `addze r3,r3`. -/
theorem test_addze :
    gives (machine 0x7C640595 [(4, 0x7FFFFFFF)] 0x21234567 0x00000000) [(3, 0x80000000)] 0xC1234567 0x90000000 = true ∧
    gives (machine 0x7C630194 [(3, 0xFFFFFFFE)] 0x21234567 0x00000000) [(3, 0xFFFFFFFF)] 0x01234567 0x00000000 = true := by
  decide

/-- `subfzeo r3,r4` and `subfze r3,r4`. -/
theorem test_subfze :
    gives (machine 0x7C640590 [(4, 0x80000000)] 0x21234567 0x00000000) [(3, 0x80000000)] 0xC1234567 0x00000000 = true ∧
    gives (machine 0x7C640190 [(4, 0x00000000)] 0x21234567 0x00000000) [(3, 0x00000000)] 0x21234567 0x00000000 = true := by
  decide

/-- `nego. r3,r4` and `nego r3,r4`. -/
theorem test_neg :
    gives (machine 0x7C6404D1 [(4, 0x80000000)] 0x01234567 0x00000000) [(3, 0x80000000)] 0xC1234567 0x90000000 = true ∧
    gives (machine 0x7C6404D0 [(4, 0x00000005)] 0xC1234567 0x00000000) [(3, 0xFFFFFFFB)] 0x81234567 0x00000000 = true := by
  decide

/-- `mulli r3,r4,-3` and `mulli r3,r4,32767`. -/
theorem test_mulli :
    gives (machine 0x1C64FFFD [(4, 0x00000007)] 0x01234567 0x00000000) [(3, 0xFFFFFFEB)] 0x01234567 0x00000000 = true ∧
    gives (machine 0x1C647FFF [(4, 0x00010001)] 0x01234567 0x00000000) [(3, 0x7FFF7FFF)] 0x01234567 0x00000000 = true := by
  decide

/-- `mullwo. r3,r4,r5` and `mullwo r3,r4,r5`. -/
theorem test_mullw :
    gives (machine 0x7C642DD7 [(4, 0x00010000), (5, 0x00010000)] 0x01234567 0x00000000) [(3, 0x00000000)] 0xC1234567 0x30000000 = true ∧
    gives (machine 0x7C642DD6 [(4, 0xFFFFFFFF), (5, 0x80000000)] 0x01234567 0x00000000) [(3, 0x80000000)] 0xC1234567 0x00000000 = true := by
  decide

/-- `mulhw. r3,r4,r5` and `mulhw r3,r4,r5`. -/
theorem test_mulhw :
    gives (machine 0x7C642897 [(4, 0x80000000), (5, 0x7FFFFFFF)] 0x01234567 0x00000000) [(3, 0xC0000000)] 0x01234567 0x80000000 = true ∧
    gives (machine 0x7C642896 [(4, 0xFFFFFFFF), (5, 0xFFFFFFFF)] 0x01234567 0x00000000) [(3, 0x00000000)] 0x01234567 0x00000000 = true := by
  decide

/-- `mulhwu. r3,r4,r5` and `mulhwu r3,r4,r5`. -/
theorem test_mulhwu :
    gives (machine 0x7C642817 [(4, 0xFFFFFFFF), (5, 0x00000001)] 0x01234567 0x00000000) [(3, 0x00000000)] 0x01234567 0x20000000 = true ∧
    gives (machine 0x7C642816 [(4, 0x80000000), (5, 0x00000002)] 0x01234567 0x00000000) [(3, 0x00000001)] 0x01234567 0x00000000 = true := by
  decide

/-- `divwo. r3,r4,r5` and `divwo r3,r4,r5`. -/
theorem test_divw :
    gives (machine 0x7C642FD7 [(4, 0x7FFFFFFF), (5, 0xFFFFFFFF)] 0xC1234567 0x00000000) [(3, 0x80000001)] 0x81234567 0x90000000 = true ∧
    gives (machine 0x7C642FD6 [(4, 0x80000000), (5, 0x00000001)] 0x41234567 0x00000000) [(3, 0x80000000)] 0x01234567 0x00000000 = true := by
  decide

/-- `divwuo r3,r4,r5` and `divwu. r3,r4,r5`. -/
theorem test_divwu :
    gives (machine 0x7C642F96 [(4, 0x00000064), (5, 0x00000007)] 0xC1234567 0x00000000) [(3, 0x0000000E)] 0x81234567 0x00000000 = true ∧
    gives (machine 0x7C642B97 [(4, 0xFFFFFFFF), (5, 0x00000001)] 0x01234567 0x00000000) [(3, 0xFFFFFFFF)] 0x01234567 0x80000000 = true := by
  decide

/-- `cmpi 7,0,r3,-1` and `cmpi 0,0,r3,0`. -/
theorem test_cmpi :
    gives (machine 0x2F83FFFF [(3, 0xFFFFFFFF)] 0x01234567 0xFFFFFFFF) [(3, 0xFFFFFFFF)] 0x01234567 0xFFFFFFF2 = true ∧
    gives (machine 0x2C030000 [(3, 0x80000000)] 0x01234567 0xFFFFFFFF) [(3, 0x80000000)] 0x01234567 0x8FFFFFFF = true := by
  decide

/-- `cmp 3,0,r3,r4` and `cmp 0,0,r3,r4`. -/
theorem test_cmp :
    gives (machine 0x7D832000 [(3, 0x00000001), (4, 0xFFFFFFFF)] 0x81234567 0x00000000) [(3, 0x00000001), (4, 0xFFFFFFFF)] 0x81234567 0x00050000 = true ∧
    gives (machine 0x7C032000 [(3, 0x80000000), (4, 0x7FFFFFFF)] 0x01234567 0x00000000) [(3, 0x80000000), (4, 0x7FFFFFFF)] 0x01234567 0x80000000 = true := by
  decide

/-- `cmpli 0,0,r3,0` and `cmpli 0,0,r3,65535`. -/
theorem test_cmpli :
    gives (machine 0x28030000 [(3, 0x80000000)] 0x01234567 0xFFFFFFFF) [(3, 0x80000000)] 0x01234567 0x4FFFFFFF = true ∧
    gives (machine 0x2803FFFF [(3, 0xFFFFFFFF)] 0x01234567 0x00000000) [(3, 0xFFFFFFFF)] 0x01234567 0x40000000 = true := by
  decide

/-- `cmpl 3,0,r3,r4` and `cmpl 0,0,r3,r4`. -/
theorem test_cmpl :
    gives (machine 0x7D832040 [(3, 0x00000001), (4, 0xFFFFFFFF)] 0x81234567 0x00000000) [(3, 0x00000001), (4, 0xFFFFFFFF)] 0x81234567 0x00090000 = true ∧
    gives (machine 0x7C032040 [(3, 0x80000000), (4, 0x7FFFFFFF)] 0x01234567 0x00000000) [(3, 0x80000000), (4, 0x7FFFFFFF)] 0x01234567 0x40000000 = true := by
  decide

/-- `andi. r3,r4,65280` and `andi. r3,r4,65535`. -/
theorem test_andiRc :
    gives (machine 0x7083FF00 [(4, 0x12345678)] 0x01234567 0x00000000) [(3, 0x00005600)] 0x01234567 0x40000000 = true ∧
    gives (machine 0x7083FFFF [(4, 0xFFFF0000)] 0x81234567 0x00000000) [(3, 0x00000000)] 0x81234567 0x30000000 = true := by
  decide

/-- `andis. r3,r4,65280` and `andis. r3,r4,32768`. -/
theorem test_andisRc :
    gives (machine 0x7483FF00 [(4, 0x12345678)] 0x01234567 0x00000000) [(3, 0x12000000)] 0x01234567 0x40000000 = true ∧
    gives (machine 0x74838000 [(4, 0xFFFFFFFF)] 0x01234567 0x00000000) [(3, 0x80000000)] 0x01234567 0x80000000 = true := by
  decide

/-- `ori r0,r0,0` and `ori r3,r4,65280`. -/
theorem test_ori :
    gives (machine 0x60000000 [(0, 0xDEADBEEF)] 0xE1234567 0x12345678) [(0, 0xDEADBEEF)] 0xE1234567 0x12345678 = true ∧
    gives (machine 0x6083FF00 [(4, 0x12345678)] 0x01234567 0x00000000) [(3, 0x1234FF78)] 0x01234567 0x00000000 = true := by
  decide

/-- `oris r3,r4,65280`. -/
theorem test_oris :
    gives (machine 0x6483FF00 [(4, 0x12345678)] 0x01234567 0x00000000) [(3, 0xFF345678)] 0x01234567 0x00000000 = true := by
  decide

/-- `xori r3,r4,65280` and `xori r3,r4,65535`. -/
theorem test_xori :
    gives (machine 0x6883FF00 [(4, 0x12345678)] 0x01234567 0x00000000) [(3, 0x1234A978)] 0x01234567 0x00000000 = true ∧
    gives (machine 0x6883FFFF [(4, 0x0000FFFF)] 0x01234567 0x00000000) [(3, 0x00000000)] 0x01234567 0x00000000 = true := by
  decide

/-- `xoris r3,r4,65280`. -/
theorem test_xoris :
    gives (machine 0x6C83FF00 [(4, 0x12345678)] 0x01234567 0x00000000) [(3, 0xED345678)] 0x01234567 0x00000000 = true := by
  decide

/-- `and. r3,r4,r5` and `and r3,r4,r5`. -/
theorem test_and :
    gives (machine 0x7C832839 [(4, 0xF0F0F0F0), (5, 0x0FF00FF0)] 0xE1234567 0x00000000) [(3, 0x00F000F0)] 0xE1234567 0x50000000 = true ∧
    gives (machine 0x7C832838 [(4, 0x12345678), (5, 0x0F0F0F0F)] 0x01234567 0x00000000) [(3, 0x02040608)] 0x01234567 0x00000000 = true := by
  decide

/-- `or. r3,r4,r4` and `or r3,r4,r5`. -/
theorem test_or :
    gives (machine 0x7C832379 [(4, 0x00000000)] 0x01234567 0x00000000) [(3, 0x00000000)] 0x01234567 0x20000000 = true ∧
    gives (machine 0x7C832B78 [(4, 0x12345678), (5, 0x0F0F0F0F)] 0x01234567 0x00000000) [(3, 0x1F3F5F7F)] 0x01234567 0x00000000 = true := by
  decide

/-- `xor. r3,r4,r4` and `xor r3,r4,r5`. -/
theorem test_xor :
    gives (machine 0x7C832279 [(4, 0x12345678)] 0x81234567 0x00000000) [(3, 0x00000000)] 0x81234567 0x30000000 = true ∧
    gives (machine 0x7C832A78 [(4, 0x12345678), (5, 0x0F0F0F0F)] 0x01234567 0x00000000) [(3, 0x1D3B5977)] 0x01234567 0x00000000 = true := by
  decide

/-- `nand r3,r4,r5` and `nand r3,r4,r4`. -/
theorem test_nand :
    gives (machine 0x7C832BB8 [(4, 0x12345678), (5, 0x0F0F0F0F)] 0x01234567 0x00000000) [(3, 0xFDFBF9F7)] 0x01234567 0x00000000 = true ∧
    gives (machine 0x7C8323B8 [(4, 0x12345678)] 0x01234567 0x00000000) [(3, 0xEDCBA987)] 0x01234567 0x00000000 = true := by
  decide

/-- `nor. r3,r4,r4` and `nor r3,r4,r5`. -/
theorem test_nor :
    gives (machine 0x7C8320F9 [(4, 0xFFFFFFFF)] 0x01234567 0x00000000) [(3, 0x00000000)] 0x01234567 0x20000000 = true ∧
    gives (machine 0x7C8328F8 [(4, 0x12345678), (5, 0x0F0F0F0F)] 0x01234567 0x00000000) [(3, 0xE0C0A080)] 0x01234567 0x00000000 = true := by
  decide

/-- `eqv. r3,r4,r4` and `eqv r3,r4,r5`. -/
theorem test_eqv :
    gives (machine 0x7C832239 [(4, 0x12345678)] 0x01234567 0x00000000) [(3, 0xFFFFFFFF)] 0x01234567 0x80000000 = true ∧
    gives (machine 0x7C832A38 [(4, 0x12345678), (5, 0x0F0F0F0F)] 0x01234567 0x00000000) [(3, 0xE2C4A688)] 0x01234567 0x00000000 = true := by
  decide

/-- `andc. r3,r4,r4` and `andc r3,r4,r5`. -/
theorem test_andc :
    gives (machine 0x7C832079 [(4, 0x12345678)] 0x01234567 0x00000000) [(3, 0x00000000)] 0x01234567 0x20000000 = true ∧
    gives (machine 0x7C832878 [(4, 0x12345678), (5, 0x0F0F0F0F)] 0x01234567 0x00000000) [(3, 0x10305070)] 0x01234567 0x00000000 = true := by
  decide

/-- `orc r3,r4,r5` and `orc r3,r4,r4`. -/
theorem test_orc :
    gives (machine 0x7C832B38 [(4, 0x12345678), (5, 0x0F0F0F0F)] 0x01234567 0x00000000) [(3, 0xF2F4F6F8)] 0x01234567 0x00000000 = true ∧
    gives (machine 0x7C832338 [(4, 0x12345678)] 0x01234567 0x00000000) [(3, 0xFFFFFFFF)] 0x01234567 0x00000000 = true := by
  decide

/-- `extsb. r3,r4` and `extsb r3,r4`. -/
theorem test_extsb :
    gives (machine 0x7C830775 [(4, 0xFFFFFF00)] 0x01234567 0x00000000) [(3, 0x00000000)] 0x01234567 0x20000000 = true ∧
    gives (machine 0x7C830774 [(4, 0x1234567F)] 0x01234567 0x00000000) [(3, 0x0000007F)] 0x01234567 0x00000000 = true := by
  decide

/-- `extsh. r3,r4` and `extsh r3,r4`. -/
theorem test_extsh :
    gives (machine 0x7C830735 [(4, 0x12348000)] 0x01234567 0x00000000) [(3, 0xFFFF8000)] 0x01234567 0x80000000 = true ∧
    gives (machine 0x7C830734 [(4, 0x12347FFF)] 0x01234567 0x00000000) [(3, 0x00007FFF)] 0x01234567 0x00000000 = true := by
  decide

/-- `cntlzw. r3,r4` and `cntlzw r3,r4`. -/
theorem test_cntlzw :
    gives (machine 0x7C830035 [(4, 0x80000000)] 0x01234567 0x00000000) [(3, 0x00000000)] 0x01234567 0x20000000 = true ∧
    gives (machine 0x7C830034 [(4, 0x00012345)] 0x01234567 0x00000000) [(3, 0x0000000F)] 0x01234567 0x00000000 = true := by
  decide

/-- `rlwinm. r3,r4,1,0,31` and `rlwinm r3,r4,0,0,31`. -/
theorem test_rlwinm :
    gives (machine 0x5483083F [(4, 0x80000000)] 0xA1234567 0x00000000) [(3, 0x00000001)] 0xA1234567 0x50000000 = true ∧
    gives (machine 0x5483003E [(4, 0xFFFFFFFF)] 0x01234567 0x00000000) [(3, 0xFFFFFFFF)] 0x01234567 0x00000000 = true := by
  decide

/-- `rlwnm. r3,r4,r5,16,23` and `rlwnm r3,r4,r5,0,31`. -/
theorem test_rlwnm :
    gives (machine 0x5C832C2F [(4, 0x12345678), (5, 0xFFFFFFEC)] 0x01234567 0x00000000) [(3, 0x00008100)] 0x01234567 0x40000000 = true ∧
    gives (machine 0x5C83283E [(4, 0x12345678), (5, 0x00000024)] 0x01234567 0x00000000) [(3, 0x23456781)] 0x01234567 0x00000000 = true := by
  decide

/-- `rlwimi. r3,r4,16,24,7` and `rlwimi r3,r4,8,8,15`. -/
theorem test_rlwimi :
    gives (machine 0x5083860F [(3, 0xAAAAAAAA), (4, 0x12345678)] 0x01234567 0x00000000) [(3, 0x56AAAA34)] 0x01234567 0x40000000 = true ∧
    gives (machine 0x5083421E [(3, 0xAAAAAAAA), (4, 0x12345678)] 0x01234567 0x00000000) [(3, 0xAA56AAAA)] 0x01234567 0x00000000 = true := by
  decide

/-- `slw. r3,r4,r5` and `slw r3,r4,r5`. -/
theorem test_slw :
    gives (machine 0x7C832831 [(4, 0x00000001), (5, 0x0000001F)] 0x61234567 0x00000000) [(3, 0x80000000)] 0x61234567 0x80000000 = true ∧
    gives (machine 0x7C832830 [(4, 0x12345678), (5, 0x00000004)] 0x01234567 0x00000000) [(3, 0x23456780)] 0x01234567 0x00000000 = true := by
  decide

/-- `srw. r3,r4,r5` and `srw r3,r4,r5`. -/
theorem test_srw :
    gives (machine 0x7C832C31 [(4, 0xFFFFFFFF), (5, 0x00000001)] 0x21234567 0x00000000) [(3, 0x7FFFFFFF)] 0x21234567 0x40000000 = true ∧
    gives (machine 0x7C832C30 [(4, 0x12345678), (5, 0x00000004)] 0x01234567 0x00000000) [(3, 0x01234567)] 0x01234567 0x00000000 = true := by
  decide

/-- `srawi. r3,r4,4` and `srawi r3,r4,2`. -/
theorem test_srawi :
    gives (machine 0x7C832671 [(4, 0x87654321)] 0x01234567 0x00000000) [(3, 0xF8765432)] 0x21234567 0x80000000 = true ∧
    gives (machine 0x7C831670 [(4, 0xFFFFFFF9)] 0x01234567 0x00000000) [(3, 0xFFFFFFFE)] 0x21234567 0x00000000 = true := by
  decide

/-- `sraw. r3,r4,r5` and `sraw r3,r4,r5`. -/
theorem test_sraw :
    gives (machine 0x7C832E31 [(4, 0xFFFF0000), (5, 0x00000010)] 0x21234567 0x00000000) [(3, 0xFFFFFFFF)] 0x01234567 0x80000000 = true ∧
    gives (machine 0x7C832E30 [(4, 0x40000000), (5, 0x00000001)] 0xE1234567 0x00000000) [(3, 0x20000000)] 0xC1234567 0x00000000 = true := by
  decide

/-- `sc` (section 2.7). -/
theorem test_sc : raises (machine 0x44000002 [] 0 0) .systemCall 0x1004 = true := by decide

/-- `twi 16,r3,10` of -1 traps and `twi 2,r3,10` does not (section 2.7). -/
theorem test_twi : raises (machine 0x0E03000A [(3, 0xFFFFFFFF)] 0 0) .programTrap 0x1000 = true ∧
    gives (machine 0x0C43000A [(3, 0xFFFFFFFF)] 0 0) [(3, 0xFFFFFFFF)] 0 0 = true := by decide

/-- `tw 5,r3,r4` compares unsigned: it traps on 0x80000000 against 1 and not the other way round (section 2.7). -/
theorem test_tw : raises (machine 0x7CA32008 [(3, 0x80000000), (4, 1)] 0 0) .programTrap 0x1000 = true ∧
    gives (machine 0x7CA32008 [(3, 1), (4, 0x80000000)] 0 0) [(3, 1), (4, 0x80000000)] 0 0 = true := by decide

/-- What an undefined divide fixes (R106): the pc, OV and SO; the quotient is free. -/
def fixedByUndefinedDivide (s : State) (xer : Word) : Bool :=
  match step s with
  | .next t => t.pc == 0x1004 && t.xer == xer && t.draws == 1
  | .fault _ => false
  | .refused _ => false

/-- `divwo r3,r4,r5` of 1 by 0, and of -2^31 by -1, sets OV and SO (section 2.2). -/
theorem test_divwo_undefined :
    fixedByUndefinedDivide (machine 0x7C642FD6 [(4, 1), (5, 0)] 0 0) 0xC0000000 = true ∧
    fixedByUndefinedDivide (machine 0x7C642FD6 [(4, 0x80000000), (5, 0xFFFFFFFF)] 0 0) 0xC0000000 = true := by decide

/-- `divwu r3,r4,r5` of 5 by 0 leaves the XER alone. -/
theorem test_divwu_undefined : fixedByUndefinedDivide (machine 0x7C642B96 [(4, 5)] 0x01234567 0) 0x01234567 = true := by decide

/-! ## Where a run stops -/

/-- No word at the pc (section 3, last row; program P1 and the reset state). -/
theorem test_stuck : State.reset.fetchInstr = .fault (.stuck 0xFFF00100) := rfl

/-- `cmpi 0,1,r3,0` at 0x1000 ends the run (section 3). -/
theorem test_step_invalidForm : step (machine 0x2C230000 [] 0 0) = .fault (.invalidForm 0x1000 0x2C230000) := rfl

/-- `blr` is refused (section 3). -/
theorem test_step_refused : step (machine 0x4E800020 [] 0 0) = .refused (.refusedWord 0x1000 0x4E800020) := rfl

/-- END_PC stops the run before the fetch, even where there is no word (R213). -/
theorem test_step_end : step { State.reset with endPc := some 0xFFF00100 } = .fault (.runEnded 0xFFF00100) := rfl

/-- A word lies in memory with its most significant byte first (R32). -/
theorem test_memory_order : (machine 0x7C642A14 [] 0 0).mem = [(0x1000, 0x7C), (0x1001, 0x64), (0x1002, 0x2A), (0x1003, 0x14)] := by decide

/-! ## Witnesses: the hypotheses of each statement can be met -/

/-- A running machine at 0x1000. -/
theorem running_machine : (machine 0x7C642A14 [(4, 0x7FFFFFFF), (5, 1)] 0 0).Running := ⟨by decide, by decide⟩

/-- It holds `add r3,r4,r5`. -/
theorem holds_machine : (machine 0x7C642A14 [(4, 0x7FFFFFFF), (5, 1)] 0 0).HoldsWord 0x7C642A14 :=
  ⟨0x7C, 0x64, 0x2A, 0x14, ⟨by decide, by decide, by decide, by decide⟩, by decide⟩

theorem witness_DecodeOfEncode :
    (Instr.rlwimiRc 31 0 31 0 31).wellFormed = true ∧ (Instr.twi 31 31 0xFFFF).wellFormed = true ∧
    (Instr.cmpi 7 false 31 0x8000).wellFormed = true := by decide

theorem witness_EncodeOfDecode :
    decodeWord 0x57FFFFFF = .instr (.rlwinmRc 31 31 31 31 31) ∧ decodeWord 0x38000000 = .instr (.addi 0 0 0) := by decide

/-- Each of the four opcodes, with L = 1, and with every bit the opcode leaves set; and a running machine that holds one. -/
theorem witness_CompareWithLInvalid :
    (opcdOf 0x2BFFFFFF = 10 ∧ (0x2BFFFFFF : Word).getMsbD 10 = true) ∧
    (opcdOf 0x2C230000 = 11 ∧ (0x2C230000 : Word).getMsbD 10 = true) ∧
    (opcdOf 0x7C232000 = 31 ∧ xo10Of 0x7C232000 = 0 ∧ (0x7C232000 : Word).getMsbD 10 = true) ∧
    (opcdOf 0x7C232040 = 31 ∧ xo10Of 0x7C232040 = 32 ∧ (0x7C232040 : Word).getMsbD 10 = true) ∧
    (machine 0x2C230000 [] 0 0).Running ∧ (machine 0x2C230000 [] 0 0).HoldsWord 0x2C230000 :=
  ⟨by decide, by decide, by decide, by decide, ⟨by decide, by decide⟩,
    ⟨0x2C, 0x23, 0, 0, ⟨by decide, by decide, by decide, by decide⟩, by decide⟩⟩

/-- Each clause, and a running machine that holds an invalid form. -/
theorem witness_ReservedBitsInvalid :
    (opcdOf 0x2C430000 = 11 ∧ (0x2C430000 : Word).getMsbD 9 = true) ∧
    (opcdOf 0x7FE00009 = 31 ∧ xo10Of 0x7FE00009 = 4 ∧ (0x7FE00009 : Word).getMsbD 31 = true) ∧
    (opcdOf 0x7C6428D0 = 31 ∧ xo9Of 0x7C6428D0 = 104 ∧ rBOf 0x7C6428D0 = 5) ∧
    (opcdOf 0x7C832834 = 31 ∧ xo10Of 0x7C832834 = 26 ∧ rBOf 0x7C832834 = 5) ∧
    (opcdOf 0x7C642C96 = 31 ∧ xo9Of 0x7C642C96 = 75 ∧ (0x7C642C96 : Word).getMsbD 21 = true) ∧
    (opcdOf 0x44000003 = 17 ∧ (0x44000003 : Word).getMsbD 30 = true ∧ (0x44000003 : Word) ≠ 0x44000002) ∧
    decodeWord 0x44000003 = .invalidForm ∧ (machine 0x44000003 [] 0 0).Running ∧
    (machine 0x44000003 [] 0 0).HoldsWord 0x44000003 :=
  ⟨by decide, by decide, by decide, by decide, by decide, by decide, by decide, ⟨by decide, by decide⟩,
    ⟨0x44, 0, 0, 3, ⟨by decide, by decide, by decide, by decide⟩, by decide⟩⟩

theorem witness_RefusedWords :
    decodeWord 0x4E800020 = .refused ∧ (machine 0x4E800020 [] 0 0).Running ∧
    (machine 0x4E800020 [] 0 0).HoldsWord 0x4E800020 :=
  ⟨by decide, ⟨by decide, by decide⟩, ⟨0x4E, 0x80, 0, 0x20, ⟨by decide, by decide, by decide, by decide⟩, by decide⟩⟩

/-- A word that is fetched, here at the top of the address space, whose next word would lie at address 0. -/
theorem witness_FetchBigEndian :
    let s := { State.reset with pc := 0xFFFFFFFC }.withFetchWord 32 0x7C642A14
    s.HoldsBytes 0x7C 0x64 0x2A 0x14 ∧ s.fetchWord = some 0x7C642A14 :=
  ⟨⟨by decide, by decide, by decide, by decide⟩, by decide⟩

theorem witness_StepRunsDecodedInstruction :
    let s := machine 0x7C642A14 [(4, 0x7FFFFFFF), (5, 1)] 0 0
    s.Running ∧ s.HoldsWord 0x7C642A14 ∧ decodeWord 0x7C642A14 = .instr (.add 3 4 5) ∧
    (Instr.add 3 4 5).wellFormed = true ∧ s.HoldsWord (encode (.add 3 4 5)) :=
  ⟨running_machine, holds_machine, by decide, by decide, holds_machine⟩

/-- The three clauses: a pc of 2, the pc at END_PC, and a running machine without memory. -/
theorem witness_StopsBeforeDecoding :
    (∃ s : State, s.pc.toNat % 4 ≠ 0) ∧ (∃ s : State, s.pc.toNat % 4 = 0 ∧ s.endPc = some s.pc) ∧
    (State.reset.Running ∧ ∀ w, ¬ State.reset.HoldsWord w) :=
  ⟨⟨{ State.reset with pc := 2 }, by decide⟩, ⟨{ State.reset with endPc := some 0xFFF00100 }, by decide, rfl⟩,
    ⟨by decide, by decide⟩, fun _ h => by obtain ⟨_, _, _, _, ⟨h0, _⟩, _⟩ := h; cases h0⟩

/-- From a machine with SO and OV set, and from one at the top of the address space, to a completed instruction. -/
theorem witness_StepKeepsInv :
    ((machine 0x7C642A14 [] 0xC0000000 0).Inv ∧ ∃ t, step (machine 0x7C642A14 [] 0xC0000000 0) = .next t) ∧
    (let s := { State.reset with pc := 0xFFFFFFFC }.withFetchWord 32 0x7C642A14
     s.Inv ∧ ∃ t, step s = .next t) :=
  ⟨⟨⟨by decide, by decide, by decide⟩, _, rfl⟩, ⟨⟨by decide, by decide, by decide⟩, _, rfl⟩⟩

theorem witness_PlacedInstructionRuns : (Instr.subfic 3 4 0x8000).wellFormed = true := by decide

theorem witness_EveryInstructionCompletesOrRaises :
    ((Instr.cmp 7 false 0 31).wellFormed = true ∧ (footprint (.cmp 7 false 0 31)).raises = none) ∧
    ((Instr.sc).wellFormed = true ∧ (footprint .sc).raises = some .systemCall) ∧
    (Instr.tw 31 0 0).wellFormed = true ∧ (footprint (.tw 31 0 0)).raises = some .programTrap := by decide

/-- An instruction that completes, at the top of the address space, and `sc` and a trap there. -/
theorem witness_NextPcOrException :
    let s := { State.reset with pc := 0xFFFFFFFC }
    (∃ t, exec (.addi 3 4 1) s = .next t) ∧ (∃ e, exec .sc s = .fault (.exception e)) ∧
    ∃ e, exec (.tw 31 0 0) s = .fault (.exception e) :=
  ⟨⟨_, rfl⟩, ⟨_, rfl⟩, ⟨_, rfl⟩⟩

/-- One instruction that meets the premises of the GPR, CA, OV and CR clauses together. -/
theorem witness_NothingElseChanges :
    (∃ t, exec (.and 3 4 5) (machine 0 [(4, 7)] 0xE0000000 0xFFFFFFFF) = .next t) ∧
    (footprint (.and 3 4 5)).gpr ≠ some 31 ∧ (footprint (.and 3 4 5)).overflow = false ∧
    (footprint (.and 3 4 5)).ca = false ∧ (footprint (.and 3 4 5)).cr = none ∧
    (footprint (.cmp 7 false 4 5)).cr = some 7 :=
  ⟨⟨_, rfl⟩, by decide, rfl, rfl, rfl, rfl⟩

/-- SO set before; and OV set by `addo` where it was clear. -/
theorem witness_SummaryOverflowIsSticky :
    (machine 0x7C642E14 [] 0x80000000 0).xer.getMsbD 0 = true ∧
    (∃ t, exec (.addo 3 4 5) (machine 0x7C642E14 [] 0x80000000 0) = .next t) ∧
    (machine 0x7C642E14 [(4, 0x7FFFFFFF), (5, 1)] 0 0).xer.getMsbD 1 = false ∧
    ∃ t, exec (.addo 3 4 5) (machine 0x7C642E14 [(4, 0x7FFFFFFF), (5, 1)] 0 0) = .next t ∧ t.xer.getMsbD 1 = true :=
  ⟨by decide, ⟨_, rfl⟩, by decide, ⟨_, rfl, by decide⟩⟩

theorem witness_CrAndMsrNeverRead :
    (∃ t, exec (.cmp 7 false 4 5) (machine 0 [] 0 0x12345678) = .next t) ∧ (footprint (.cmp 7 false 4 5)).cr = some 7 ∧
    28 / 4 = (7 : CrIndex).val ∧ 31 / 4 = (7 : CrIndex).val ∧
    ∃ e, exec (.tw 4 4 5) (machine 0 [] 0 0x12345678) = .fault (.exception e) :=
  ⟨⟨_, rfl⟩, rfl, by decide, by decide, ⟨_, rfl⟩⟩

/-- A division by 0 that records, -2^31 divided by -1, and a division with a quotient. -/
theorem witness_DrawsAreFresh :
    ((∃ t, exec (.divwuRc 3 4 5) (machine 0 [(4, 1)] 0 0) = .next t) ∧
      UndefinedDivide (machine 0 [(4, 1)] 0 0) (.divwuRc 3 4 5) ∧
      (footprint (.divwuRc 3 4 5)).gpr = some 3 ∧ (footprint (.divwuRc 3 4 5)).cr = some 0) ∧
    UndefinedDivide (machine 0 [(4, 0x80000000), (5, 0xFFFFFFFF)] 0 0) (.divwo 3 4 5) ∧
    ((∃ t, exec (.divwuoRc 3 4 5) (machine 0 [(4, 1), (5, 1)] 0 0) = .next t) ∧
      ¬ UndefinedDivide (machine 0 [(4, 1), (5, 1)] 0 0) (.divwuoRc 3 4 5)) :=
  ⟨⟨⟨_, rfl⟩, Or.inl (by decide), rfl, rfl⟩, Or.inr (by decide), ⟨_, rfl⟩, by unfold UndefinedDivide UndefinedQuotient; decide⟩

theorem witness_SubtractionFlags : ∃ t, exec (.subfco 3 4 5) (machine 0 [(4, 5), (5, 3)] 0 0) = .next t := ⟨_, rfl⟩

theorem witness_ExtendedAddition : (3 : Reg) ≠ 6 ∧ (3 : Reg) ≠ 7 ∧ (3 : Reg) ≠ 8 := by decide

/-- -7 by 2: the registers differ as asked and the quotient is defined. -/
theorem witness_RemainderIdiom :
    (6 : Reg) ≠ 4 ∧ (6 : Reg) ≠ 5 ∧ (7 : Reg) ≠ 4 ∧
    ¬ UndefinedQuotient true ((machine 0 [(4, 0xFFFFFFF9), (5, 2)] 0 0).readGpr 4) ((machine 0 [(4, 0xFFFFFFF9), (5, 2)] 0 0).readGpr 5) := by
  unfold UndefinedQuotient; decide

/-- Division by 0, -2^31 by -1, and -2^31 by 1, whose quotient is defined. -/
theorem witness_DivideSigned :
    UndefinedQuotient true 7 0 ∧ UndefinedQuotient true 0x80000000 0xFFFFFFFF ∧ ¬ UndefinedQuotient true 0x80000000 1 := by
  unfold UndefinedQuotient; decide

/-- Division by 0, and 0x80000000 by 0xFFFFFFFF, whose unsigned quotient is defined. -/
theorem witness_DivideUnsigned : UndefinedQuotient false 7 0 ∧ ¬ UndefinedQuotient false 0x80000000 0xFFFFFFFF := by
  unfold UndefinedQuotient; decide

/-- Counts of 32 and 63; 64 counts as 0. -/
theorem witness_LogicalShifts :
    32 ≤ (32 : Word).toNat % 64 ∧ 32 ≤ (63 : Word).toNat % 64 ∧ ¬ 32 ≤ (64 : Word).toNat % 64 := by decide

/-- A machine about to run `sc`, whose outcome is the exception. -/
theorem witness_SystemCall :
    (machine 0x44000002 [] 0 0).Running ∧ (machine 0x44000002 [] 0 0).HoldsWord 0x44000002 ∧
    ∃ e, exec .sc (machine 0x44000002 [] 0 0) = .fault (.exception e) ∧ e.kind = .systemCall :=
  ⟨⟨by decide, by decide⟩, ⟨0x44, 0, 0, 2, ⟨by decide, by decide, by decide, by decide⟩, by decide⟩, ⟨_, rfl, rfl⟩⟩

/-- TO = 16 on -1 against 10, signed, and TO = 1 on 0x80000000 against 1, unsigned, hold; TO = 0 on any operands and
TO = 24 on equal ones do not. -/
theorem witness_TrapInstructions :
    TrapHolds 16 0xFFFFFFFF (BitVec.ofInt 32 (10 : BitVec 16).toInt) ∧ TrapHolds 1 0x80000000 1 ∧
    ¬ TrapHolds 0 7 (BitVec.ofInt 32 (0xFFFF : BitVec 16).toInt) ∧ ¬ TrapHolds 24 5 5 := by
  unfold TrapHolds; decide

/-- `twi 16,r3,10` and `tw 31,r0,r0`, each at the pc of a running machine. -/
theorem witness_TrapTaken :
    ((machine 0x0E03000A [(3, 0xFFFFFFFF)] 0 0).Running ∧
      (machine 0x0E03000A [(3, 0xFFFFFFFF)] 0 0).HoldsWord (encode (.twi 16 3 10))) ∧
    (machine 0x7FE00008 [] 0 0).Running ∧ (machine 0x7FE00008 [] 0 0).HoldsWord (encode (.tw 31 0 0)) :=
  ⟨⟨⟨by decide, by decide⟩, ⟨0x0E, 0x03, 0, 0x0A, ⟨by decide, by decide, by decide, by decide⟩, by decide⟩⟩,
    ⟨by decide, by decide⟩, ⟨0x7F, 0xE0, 0, 0x08, ⟨by decide, by decide, by decide, by decide⟩, by decide⟩⟩

theorem witness_FloatingPointGate :
    ({ State.reset with msr := 0x00002000 }).msr.getMsbD 18 = true ∧ State.reset.msr.getMsbD 18 = false := by decide

end Sys2Proof.Tests
end

section
/-! PROOFS. One part of an effect at a time, what raises an exception, and a step taken apart. -/

namespace Sys2Proof

/-- `twi` or `tw`, the instructions whose condition decides between an exception and the next instruction (R172, R173). -/
def Instr.IsTrap (i : Instr) : Prop := (∃ trapOn rA simm, i = .twi trapOn rA simm) ∨ ∃ trapOn rA rB, i = .tw trapOn rA rB

end Sys2Proof

namespace Sys2Proof.Machine

/-! ## The parts of an effect -/

/-- A register that is not the target reads as before. -/
theorem Effect.gprAfter_of_ne (e : Effect) (s : State) (g : Reg) (h : e.target.map Prod.fst ≠ some g) :
    e.gprAfter s g = s.readGpr g := by
  unfold Effect.gprAfter
  split
  · next d v ht => exact if_neg fun hg => h (by rw [ht, hg]; rfl)
  · rfl

@[simp] theorem Effect.xerBit_so (e : Effect) (s : State) : e.xerBit s 0 = (s.xer.getMsbD 0 || e.ov.getD false) := rfl

@[simp] theorem Effect.xerBit_ov (e : Effect) (s : State) : e.xerBit s 1 = e.ov.getD (s.xer.getMsbD 1) := rfl

@[simp] theorem Effect.xerBit_ca (e : Effect) (s : State) : e.xerBit s 2 = e.ca.getD (s.xer.getMsbD 2) := rfl

/-- No effect reaches the 29 opaque bits of the XER. -/
theorem Effect.xerBit_opaque (e : Effect) (s : State) (n : Nat) (h : 3 ≤ n) : e.xerBit s n = s.xer.getMsbD n := by
  rw [Effect.xerBit, if_neg (by omega), if_neg (by omega), if_neg (by omega)]

/-- An effect without OV leaves SO and OV alone. -/
theorem Effect.xerBit_of_ov_none (e : Effect) (s : State) (n : Nat) (hn : n < 2) (h : e.ov = none) :
    e.xerBit s n = s.xer.getMsbD n := by
  interval_cases n <;> simp [h]

/-- The XER afterwards depends on the XER before alone. -/
theorem Effect.xerBit_congr (e : Effect) (s u : State) (n : Nat) (h : u.xer = s.xer) : e.xerBit u n = e.xerBit s n := by
  simp only [Effect.xerBit, h]

/-- A bit of the CR outside the field written is as before. -/
theorem Effect.crBit_outside (e : Effect) (s : State) (so : Bool) (n : Nat)
    (h : ∀ k, e.cr.map Prod.fst = some k → n / 4 ≠ k.val) : e.crBit s so n = s.cr.getMsbD n := by
  unfold Effect.crBit
  split
  · next k _ _ _ hk => exact if_neg (h k (by rw [hk]; rfl))
  · rfl

/-- A bit of the CR field written does not depend on the state before. -/
theorem Effect.crBit_written (e : Effect) (s u : State) (so : Bool) (n : Nat) (k : CrIndex)
    (hk : e.cr.map Prod.fst = some k) (hn : n / 4 = k.val) : e.crBit u so n = e.crBit s so n := by
  obtain ⟨⟨k, lt, gt, eq⟩, he, rfl⟩ := Option.map_eq_some_iff.1 hk
  simp only [Effect.crBit, he, if_pos hn]

/-- The pc plus 4 as a number. -/
theorem pc_add_four_toNat (a : Word) : (a + 4).toNat = (a.toNat + 4) % 2 ^ 32 := BitVec.toNat_add a 4

/-! ## What raises an exception (R183, R184, R194) -/

/-- `sc` raises the system call, the two traps raise the trap, and nothing else raises. -/
theorem footprint_raises (i : Instr) (k : ExceptionKind) (h : (footprint i).raises = some k) :
    (i = .sc ∧ k = .systemCall) ∨ (i.IsTrap ∧ k = .programTrap) := by
  cases i with
  | sc => exact .inl ⟨rfl, (Option.some.inj h).symm⟩
  | twi trapOn rA simm => exact .inr ⟨.inl ⟨_, _, _, rfl⟩, (Option.some.inj h).symm⟩
  | tw trapOn rA rB => exact .inr ⟨.inr ⟨_, _, _, rfl⟩, (Option.some.inj h).symm⟩
  | _ => cases h

/-- A trap is `trapWhen` of its condition. -/
theorem exec_of_isTrap (i : Instr) (s : State) (h : i.IsTrap) : ∃ c, exec i s = s.trapWhen c := by
  obtain ⟨_, _, _, rfl⟩ | ⟨_, _, _, rfl⟩ := h <;> exact ⟨_, rfl⟩

/-! ## A step -/

/-- A step that answers a next state is the execution of the instruction it fetched. -/
theorem step_next (s t : State) (h : step s = .next t) : ∃ i, s.fetchInstr = .next i ∧ exec i s = .next t := by
  unfold step at h
  split at h
  · next i hi => exact ⟨i, hi, h⟩
  · cases h
  · cases h

end Sys2Proof.Machine
end

section
/-! PROOFS. The frame of an instruction, the invariant of the machine, and how an execution ends. -/

namespace Sys2Proof.Machine

/-! ## The frame -/

/-- Settles O16: the effect of `exec_next` names no more than the footprint, and each clause is one of its parts. -/
theorem nothingElseChanges : Obligations.NothingElseChanges := by
  intro i s t h
  obtain ⟨-, e, ⟨hgpr, hxer, hcr, -, hmsr, hmem, hend, -⟩, ⟨ftarget, fca, fov, fcr, -, -⟩⟩ := exec_next i s t h
  refine ⟨fun g hg => ?_, fun n hn ho => ?_, fun hc => ?_, fun n h3 hn => ?_, fun n hn ho => ?_, hmsr, hend, hmem⟩
  · rw [hgpr, e.gprAfter_of_ne s g (ftarget ▸ hg)]
  · rw [hxer n (by omega), e.xerBit_of_ov_none s n hn (by simpa [ho] using fov)]
  · have hca : e.ca = none := by simpa [hc] using fca
    rw [hxer 2 (by omega), Effect.xerBit_ca, hca, Option.getD_none]
  · rw [hxer n hn, e.xerBit_opaque s n h3]
  · rw [hcr n hn, e.crBit_outside s _ n (fcr ▸ ho)]

/-! ## The invariant -/

/-- Settles O17: SO afterwards is SO before or the OV written, so neither is lost. -/
theorem summaryOverflowIsSticky : Obligations.SummaryOverflowIsSticky := by
  intro i s t h
  obtain ⟨-, e, ⟨-, hxer, -⟩, -⟩ := exec_next i s t h
  rw [hxer 0 (by omega), hxer 1 (by omega), Effect.xerBit_so, Effect.xerBit_ov]
  cases e.ov with
  | none => exact ⟨by simp, by simp +contextual⟩
  | some v => exact ⟨by simp +contextual, by simp +contextual⟩

/-- An instruction keeps the invariant: memory is the same list, 4 is added to the pc, and an OV that is written is written
into SO too. -/
theorem exec_keeps_inv (i : Instr) (s t : State) (hs : s.Inv) (h : exec i s = .next t) : t.Inv := by
  obtain ⟨hwf, hpc, hov⟩ := hs
  obtain ⟨hmem, e, ⟨-, hxer, -, hnext, -⟩, -⟩ := exec_next i s t h
  refine ⟨hmem ▸ hwf, ?_, ?_⟩
  · rw [hnext, pc_add_four_toNat]; omega
  · rw [hxer 0 (by omega), hxer 1 (by omega), Effect.xerBit_so, Effect.xerBit_ov]
    cases e.ov with
    | none => simpa using hov
    | some v => intro hv; simpa using .inr hv

/-- Settles O10: a step that answers a next state is an execution, which keeps the invariant. -/
theorem stepKeepsInv : Obligations.StepKeepsInv := by
  intro s t hs h
  obtain ⟨i, -, hi⟩ := step_next s t h
  exact exec_keeps_inv i s t hs hi

/-! ## How an execution ends -/

/-- A well-formed instruction that can raise nothing completes. -/
theorem exec_completes (i : Instr) (s : State) (hw : i.wellFormed = true) (hr : (footprint i).raises = none) :
    ∃ t, exec i s = .next t := by
  cases h : exec i s with
  | next t => exact ⟨t, rfl⟩
  | fault f =>
    obtain ⟨k, hk, -⟩ | ⟨hf, -⟩ := exec_fault i s f h
    · rw [hr] at hk; cases hk
    · rw [hw] at hf; cases hf
  | refused r => exact absurd h (exec_ne_refused i s r)

/-- The pc of a next state. -/
theorem exec_next_pc (i : Instr) (s t : State) (h : exec i s = .next t) : t.pc = s.pc + 4 := by
  obtain ⟨-, e, ⟨-, -, -, hpc, -⟩, -⟩ := exec_next i s t h
  exact hpc

/-- Settles O14: what can raise nothing completes by `exec_completes`; `sc` raises, and a trap advances or raises. -/
theorem everyInstructionCompletesOrRaises : Obligations.EveryInstructionCompletesOrRaises := by
  intro i s hw
  refine ⟨fun hr => ?_, fun k hk => ?_⟩
  · obtain ⟨t, ht⟩ := exec_completes i s hw hr
    exact ⟨t, ht, exec_next_pc i s t ht⟩
  · obtain ⟨rfl, rfl⟩ | ⟨hi, rfl⟩ := footprint_raises i k hk
    · exact .inr rfl
    · obtain ⟨c, hc⟩ := exec_of_isTrap i s hi
      rw [hc]
      cases c
      · exact .inl (trapWhen_not s)
      · exact .inr (trapWhen_trap s)

/-- Settles O15: the pc is `exec_next_pc`, and an exception is the record of the one kind the instruction raises. -/
theorem nextPcOrException : Obligations.NextPcOrException := by
  intro i s
  refine ⟨fun t h => ?_, fun e h => ?_⟩
  · rw [exec_next_pc i s t h, pc_add_four_toNat]
  · obtain ⟨k, hk, he⟩ | ⟨-, he⟩ := exec_fault i s _ h
    · cases he
      refine ⟨rfl, ?_⟩
      obtain ⟨rfl, rfl⟩ | ⟨hi, rfl⟩ := footprint_raises i k hk
      · exact .inl ⟨rfl, rfl, pc_add_four_toNat s.pc⟩
      · exact .inr ⟨hi, rfl, rfl⟩
    · cases he

end Sys2Proof.Machine
end

section
/-! PROOFS. Two runs from states that differ in the CR and the MSR, and what the flags mean after a subtraction. -/

namespace Sys2Proof.Machine

/-! ## Two states that differ in the CR and the MSR -/

/-- The state with another CR and another MSR. -/
def State.withCrMsr (s : State) (c m : Word) : State := { s with cr := c, msr := m }

/-- Two outcomes that are one and the same effect, which writes the CR field `field`, on the state each started from; or
the same end. -/
def SameEffect (field : Option CrIndex) (s u : State) :
    Host.Outcome State Fault Refusal → Host.Outcome State Fault Refusal → Prop
  | .next s', .next u' => ∃ e : Effect, e.cr.map Prod.fst = field ∧ e.Holds s s' ∧ e.Holds u u'
  | .fault f, .fault g => f = g
  | .refused r, .refused q => r = q
  | _, _ => False

/-- Where the one run has a next state, so has the other, by the same effect. -/
theorem SameEffect.of_next {field : Option CrIndex} {s u s' : State} {o : Host.Outcome State Fault Refusal}
    (h : SameEffect field s u (.next s') o) :
    ∃ u', o = .next u' ∧ ∃ e : Effect, e.cr.map Prod.fst = field ∧ e.Holds s s' ∧ e.Holds u u' := by
  cases o with
  | next u' => exact ⟨u', rfl, h⟩
  | fault f => exact h.elim
  | refused r => exact h.elim

/-- Where the one run ends in a fault, so does the other, in the same one. -/
theorem SameEffect.of_fault {field : Option CrIndex} {s u : State} {f : Fault} {o : Host.Outcome State Fault Refusal}
    (h : SameEffect field s u (.fault f) o) : o = .fault f := by
  cases o with
  | next u' => exact h.elim
  | fault g => exact congrArg _ (Eq.symm h)
  | refused r => exact h.elim

theorem finish_sameEffect (field : Option CrIndex) (s u : State) (d : Reg) (r : Word) (ca ov : Option Bool)
    (o : Option (BitVec 3)) (hf : o.map (fun _ => 0) = field) :
    SameEffect field s u (.next (s.finish d r ca ov o)) (.next (u.finish d r ca ov o)) :=
  ⟨_, by rw [← hf, Option.map_map]; rfl, finish_holds s d r ca ov o, finish_holds u d r ca ov o⟩

theorem quotientInto_sameEffect (field : Option CrIndex) (s u : State) (oe rc : Bool) (d : Reg) (un : Bool) (q : Word)
    (hd : u.draws = s.draws) (hf : whenEnabled rc 0 = field) :
    SameEffect field s u (.next (s.quotientInto oe rc d un q)) (.next (u.quotientInto oe rc d un q)) := by
  cases un with
  | false => exact ⟨_, by simp [whenEnabled_map, hf], quotientInto_defined s oe rc d q, quotientInto_defined u oe rc d q⟩
  | true =>
    have hu := quotientInto_undefined u oe rc d q
    rw [hd] at hu
    exact ⟨_, by simp [whenEnabled_map, hf], quotientInto_undefined s oe rc d q, hu⟩

theorem compareInto_sameEffect (s u : State) (k : CrIndex) (l : Bool) (w : Word) (o : BitVec 3) (hpc : u.pc = s.pc) :
    SameEffect (some k) s u (compareInto k l w o s) (compareInto k l w o u) := by
  cases l with
  | false => exact ⟨_, rfl, compare_holds s k o, compare_holds u k o⟩
  | true => exact congrArg (Fault.invalidForm · w) hpc.symm

theorem trapWhen_sameEffect (s u : State) (c : Bool) (hpc : u.pc = s.pc) :
    SameEffect none s u (s.trapWhen c) (u.trapWhen c) := by
  cases c with
  | false => exact ⟨_, rfl, advancePc_holds s, advancePc_holds u⟩
  | true => simp [trapWhen_trap, takeException_eq, SameEffect, State.exceptionRecord, State.resumeAddress, hpc]

/-- An instruction has one effect, whatever the CR and the MSR hold: the divides draw at the same counter, the compares,
the traps and `sc` are their own operations, and all others end in `finish` of a value that neither of the two is in. -/
theorem exec_sameEffect (i : Instr) (s : State) (c m : Word) :
    SameEffect (footprint i).cr s (s.withCrMsr c m) (exec i s) (exec i (s.withCrMsr c m)) := by
  cases i with
  | divw | divwRc | divwo | divwoRc | divwu | divwuRc | divwuo | divwuoRc =>
    exact quotientInto_sameEffect _ _ _ _ _ _ _ _ rfl rfl
  | cmpi | cmp | cmpli | cmpl => exact compareInto_sameEffect _ _ _ _ _ _ rfl
  | twi | tw => exact trapWhen_sameEffect _ _ _ rfl
  | sc => exact rfl
  | _ => exact finish_sameEffect _ _ _ _ _ _ _ _ rfl

/-- One effect on states with the same XER leaves the same XER. -/
theorem Effect.Holds.xer_eq {e : Effect} {s u s' u' : State} (hs : e.Holds s s') (hu : e.Holds u u')
    (h : u.xer = s.xer) : u'.xer = s'.xer := by
  obtain ⟨-, hsx, -⟩ := hs
  obtain ⟨-, hux, -⟩ := hu
  refine BitVec.eq_of_getMsbD_eq fun n hn => ?_
  rw [hsx n hn, hux n hn, e.xerBit_congr s u n h]

/-- Settles O18: both runs have the effect of `exec_sameEffect`, and an effect takes nothing from the CR but the bits
outside the field it writes, and nothing from the MSR but the MSR. -/
theorem crAndMsrNeverRead : Obligations.CrAndMsrNeverRead := by
  intro i s c m
  have h := exec_sameEffect i s c m
  refine ⟨fun t ht => ?_, fun f hf => ?_⟩
  · rw [ht] at h
    obtain ⟨u, hu, e, hfield, hs, hw⟩ := h.of_next
    have hxer : u.xer = t.xer := hs.xer_eq hw rfl
    obtain ⟨hgpr, -, hcr, hpc, -, -, -, hdraws⟩ := hs
    obtain ⟨hgpr', -, hcr', hpc', -, -, -, hdraws'⟩ := hw
    refine ⟨u, hu, fun g => (hgpr' g).trans (hgpr g).symm, hxer, hpc'.trans hpc.symm, hdraws'.trans hdraws.symm, ?_⟩
    rintro n hn ⟨k, hk, hnk⟩
    rw [hcr n hn, hcr' n hn, hxer, e.crBit_written s _ _ n k (hfield.trans hk) hnk]
  · rw [hf] at h
    exact h.of_fault

/-! ## Subtraction (R17, R74) -/

/-- The carry of `¬a + b + c`. -/
theorem carryOut_not (a b : Word) (c : Bool) : carryOut (~~~a) b c = true ↔ a.toNat < b.toNat + c.toNat := by
  have := a.isLt
  rw [carryOut, decide_eq_true_iff, not_toNat]
  omega

/-- The overflow of `¬a + b + c`. -/
theorem sumOverflows_not (a b : Word) (c : Bool) :
    sumOverflows (~~~a) b c = unrepresentable (b.toInt - a.toInt - 1 + c.toNat) := by
  rw [sumOverflows, not_toInt]
  exact congrArg unrepresentable (by omega)

/-- The model's range check is the one of the statements. -/
theorem outsideInt32_eq (n : Int) : outsideInt32 n = unrepresentable n := by
  rw [Bool.eq_iff_iff, outsideInt32_iff]
  simp [unrepresentable]

/-- The model's overflow rule is the one of the statements. -/
theorem ovf32_eq (x y : Word) (c : Bool) : ovf32 x y c = sumOverflows x y c := outsideInt32_eq _

/-- Without a borrow the carry is that the minuend is not below the subtrahend. -/
theorem carryOut_not_true (a b : Word) : carryOut (~~~a) b true = true ↔ a.toNat ≤ b.toNat := by
  rw [carryOut_not, Bool.toNat_true, Nat.lt_succ_iff]

/-- Without a borrow the overflow is that of the difference. -/
theorem sumOverflows_not_true (a b : Word) : sumOverflows (~~~a) b true = unrepresentable (b.toInt - a.toInt) := by
  rw [sumOverflows_not]
  exact congrArg unrepresentable (by simp)

/-- CA and OV after `sumInto` with both written. -/
theorem sumInto_flags (s : State) (rc : Bool) (d : Reg) (x y : Word) (c : Bool) :
    (s.sumInto true true rc d x y c).xer.getMsbD 2 = carryOut x y c ∧
    (s.sumInto true true rc d x y c).xer.getMsbD 1 = sumOverflows x y c := by
  obtain ⟨-, hxer, -⟩ := sumInto_holds s true true rc d x y c
  rw [hxer 2 (by omega), hxer 1 (by omega), Effect.xerBit_ca, Effect.xerBit_ov]
  exact ⟨rfl, ovf32_eq x y c⟩

/-- Settles O33: the flags of `¬a + b + c`, and `subfco` is `sumInto` of those addends. -/
theorem subtractionFlags : Obligations.SubtractionFlags := by
  intro a b c
  refine ⟨carryOut_not_true a b, carryOut_not a b c, sumOverflows_not_true a b, sumOverflows_not a b c, ?_⟩
  intro rD rA rB s t h
  obtain rfl : s.sumInto true true false rD (~~~s.readGpr rA) (s.readGpr rB) true = t := by injection h
  obtain ⟨hca, hov⟩ := sumInto_flags s false rD (~~~s.readGpr rA) (s.readGpr rB) true
  rw [hca, hov, sumOverflows_not_true]
  exact ⟨Bool.eq_iff_iff.2 ((carryOut_not_true _ _).trans decide_eq_true_iff.symm), rfl⟩

end Sys2Proof.Machine
end

section
/-! PROOFS. The fields of each form of an instruction word, and decoding the word of a well-formed instruction. -/

namespace Sys2Proof

/-! ## The fields of each form (R46 to R51) -/

/-- What a bit of a word is, as arithmetic on its number. -/
theorem getLsbD_eq_iff (w : Word) (i : Nat) (b : Bool) : w.getLsbD i = b ↔ w.toNat / 2 ^ i % 2 = b.toNat := by
  rw [← getLsbD_toNat]
  cases w.getLsbD i <;> cases b <;> simp

theorem fieldRc_eq_iff (w : Word) (b : Bool) : fieldRc w = b ↔ w.toNat / 2 ^ 0 % 2 = b.toNat := getLsbD_eq_iff w 0 b

theorem fieldOe_eq_iff (w : Word) (b : Bool) : fieldOe w = b ↔ w.toNat / 2 ^ 10 % 2 = b.toNat := getLsbD_eq_iff w 10 b

theorem fieldL_eq_iff (w : Word) (b : Bool) : fieldL w = b ↔ w.toNat / 2 ^ 21 % 2 = b.toNat := getLsbD_eq_iff w 21 b

theorem fieldBit9_eq_iff (w : Word) (b : Bool) : fieldBit9 w = b ↔ w.toNat / 2 ^ 22 % 2 = b.toNat :=
  getLsbD_eq_iff w 22 b

@[simp] theorem dForm_fields (op : BitVec 6) (d a : Reg) (imm : BitVec 16) :
    fieldOpcd (dForm op d a imm) = op ∧ fieldD (dForm op d a imm) = d ∧ fieldA (dForm op d a imm) = a ∧
    fieldImm (dForm op d a imm) = imm := by
  simp only [← BitVec.toNat_inj, Fin.ext_iff, fieldOpcd_toNat, fieldD_val, fieldA_val, fieldImm_toNat, dForm_toNat]
  omega

@[simp] theorem dCompareForm_fields (op : BitVec 6) (k : CrIndex) (l : Bool) (a : Reg) (imm : BitVec 16) :
    fieldOpcd (dCompareForm op k l a imm) = op ∧ fieldCrfD (dCompareForm op k l a imm) = k ∧
    fieldBit9 (dCompareForm op k l a imm) = false ∧ fieldL (dCompareForm op k l a imm) = l ∧
    fieldA (dCompareForm op k l a imm) = a ∧ fieldImm (dCompareForm op k l a imm) = imm := by
  have := l.toNat_lt
  simp only [← BitVec.toNat_inj, Fin.ext_iff, fieldOpcd_toNat, fieldCrfD_val, fieldBit9_eq_iff, fieldL_eq_iff,
    fieldA_val, fieldImm_toNat, dCompareForm_toNat, Bool.toNat_false]
  omega

@[simp] theorem dTrapForm_fields (op : BitVec 6) (trapOn : BitVec 5) (a : Reg) (imm : BitVec 16) :
    fieldOpcd (dTrapForm op trapOn a imm) = op ∧ fieldTo (dTrapForm op trapOn a imm) = trapOn ∧
    fieldA (dTrapForm op trapOn a imm) = a ∧ fieldImm (dTrapForm op trapOn a imm) = imm := by
  simp only [← BitVec.toNat_inj, Fin.ext_iff, fieldOpcd_toNat, fieldTo_toNat, fieldA_val, fieldImm_toNat,
    dTrapForm_toNat]
  omega

/-- The 10-bit extended opcode of an XO-form is its OE bit and its 9-bit extended opcode. -/
@[simp] theorem xoForm_fields (d a b : Reg) (oe : Bool) (xo : BitVec 9) (rc : Bool) :
    fieldOpcd (xoForm d a b oe xo rc) = 31#6 ∧ fieldD (xoForm d a b oe xo rc) = d ∧ fieldA (xoForm d a b oe xo rc) = a ∧
    fieldB (xoForm d a b oe xo rc) = b ∧ fieldOe (xoForm d a b oe xo rc) = oe ∧ fieldXo9 (xoForm d a b oe xo rc) = xo ∧
    (fieldXo10 (xoForm d a b oe xo rc)).toNat = oe.toNat * 512 + xo.toNat ∧ fieldRc (xoForm d a b oe xo rc) = rc := by
  have := oe.toNat_lt
  have := rc.toNat_lt
  simp only [← BitVec.toNat_inj, Fin.ext_iff, fieldOpcd_toNat, fieldD_val, fieldA_val, fieldB_val, fieldOe_eq_iff,
    fieldXo9_toNat, fieldXo10_toNat, fieldRc_eq_iff, xoForm_toNat, BitVec.toNat_ofNat]
  omega

@[simp] theorem xForm_fields (s a b : Fin 32) (xo : BitVec 10) (rc : Bool) :
    fieldOpcd (xForm s a b xo rc) = 31#6 ∧ fieldD (xForm s a b xo rc) = s ∧ fieldA (xForm s a b xo rc) = a ∧
    fieldB (xForm s a b xo rc) = b ∧ fieldXo10 (xForm s a b xo rc) = xo ∧ fieldRc (xForm s a b xo rc) = rc := by
  have := rc.toNat_lt
  simp only [← BitVec.toNat_inj, Fin.ext_iff, fieldOpcd_toNat, fieldD_val, fieldA_val, fieldB_val, fieldXo10_toNat,
    fieldRc_eq_iff, xForm_toNat, BitVec.toNat_ofNat]
  omega

@[simp] theorem xCompareForm_fields (k : CrIndex) (l : Bool) (a b : Reg) (xo : BitVec 10) :
    fieldOpcd (xCompareForm k l a b xo) = 31#6 ∧ fieldCrfD (xCompareForm k l a b xo) = k ∧
    fieldBit9 (xCompareForm k l a b xo) = false ∧ fieldL (xCompareForm k l a b xo) = l ∧
    fieldA (xCompareForm k l a b xo) = a ∧ fieldB (xCompareForm k l a b xo) = b ∧
    fieldXo10 (xCompareForm k l a b xo) = xo ∧ fieldRc (xCompareForm k l a b xo) = false := by
  have := l.toNat_lt
  simp only [← BitVec.toNat_inj, Fin.ext_iff, fieldOpcd_toNat, fieldCrfD_val, fieldBit9_eq_iff, fieldL_eq_iff,
    fieldA_val, fieldB_val, fieldXo10_toNat, fieldRc_eq_iff, xCompareForm_toNat, Bool.toNat_false, BitVec.toNat_ofNat]
  omega

@[simp] theorem xTrapForm_fields (trapOn : BitVec 5) (a b : Reg) (xo : BitVec 10) :
    fieldOpcd (xTrapForm trapOn a b xo) = 31#6 ∧ fieldTo (xTrapForm trapOn a b xo) = trapOn ∧
    fieldA (xTrapForm trapOn a b xo) = a ∧ fieldB (xTrapForm trapOn a b xo) = b ∧
    fieldXo10 (xTrapForm trapOn a b xo) = xo ∧ fieldRc (xTrapForm trapOn a b xo) = false := by
  simp only [← BitVec.toNat_inj, Fin.ext_iff, fieldOpcd_toNat, fieldTo_toNat, fieldA_val, fieldB_val, fieldXo10_toNat,
    fieldRc_eq_iff, xTrapForm_toNat, Bool.toNat_false, BitVec.toNat_ofNat]
  omega

@[simp] theorem mForm_fields (op : BitVec 6) (s a b mb me : Fin 32) (rc : Bool) :
    fieldOpcd (mForm op s a b mb me rc) = op ∧ fieldD (mForm op s a b mb me rc) = s ∧
    fieldA (mForm op s a b mb me rc) = a ∧ fieldB (mForm op s a b mb me rc) = b ∧
    fieldMb (mForm op s a b mb me rc) = mb ∧ fieldMe (mForm op s a b mb me rc) = me ∧
    fieldRc (mForm op s a b mb me rc) = rc := by
  have := rc.toNat_lt
  simp only [← BitVec.toNat_inj, Fin.ext_iff, fieldOpcd_toNat, fieldD_val, fieldA_val, fieldB_val, fieldMb_val,
    fieldMe_val, fieldRc_eq_iff, mForm_toNat]
  omega

/-! ## Decoding the word of an instruction (R55) -/

@[simp] theorem unlessReserved_false (d : Decoded) : unlessReserved false d = d := rfl

/-- The word of a well-formed instruction decodes to it: the opcodes select its arm and the fields of its form are its
operands. -/
theorem decodeWord_encode (i : Instr) (hw : i.wellFormed = true) : decodeWord (encode i) = .instr i := by
  cases i with
  | cmpi k l | cmpli k l | cmp k l | cmpl k l =>
    obtain rfl := l_eq_false hw
    simp [encode, decodeWord, decodeExtended]
  | sc => decide
  | _ => simp [encode, decodeWord, decodeExtended, decodeXoForm, selectOeRc, selectRc]

end Sys2Proof
end

section
/-! PROOFS. The state after reset, the floating-point gate, the step of a running machine, and the step that traps. -/

namespace Sys2Proof.Machine

/-! ## After reset, and the gate of R186 -/

/-- Every register reads as 0 after reset. -/
theorem reset_readGpr (g : Reg) : State.reset.readGpr g = 0 := by
  simp [State.reset, State.readGpr]

/-- Settles O12: the registers by `reset_readGpr`, every other value as `State.reset` gives it. -/
theorem resetValues : Obligations.ResetValues :=
  ⟨rfl, rfl, reset_readGpr, rfl, rfl, fun _ => rfl, rfl⟩

/-- The gate, by the FP bit. -/
theorem floatingPointGate_eq (s : State) :
    s.floatingPointGate = if s.msr.getMsbD 18 then .next s else s.takeException .fpUnavailable := rfl

/-- Settles O59: the two branches of the gate, and the vector offset of the exception. -/
theorem floatingPointGate : Obligations.FloatingPointGate := by
  refine ⟨fun s h => ?_, fun s h => ?_, rfl⟩
  · rw [floatingPointGate_eq, h]; rfl
  · rw [floatingPointGate_eq, h]; rfl

/-! ## The step of a running machine (R21, R31, R55) -/

/-- A word is fetched exactly when the four bytes at the pc hold it. -/
theorem fetchWord_iff_holdsWord (s : State) (w : Word) : s.fetchWord = some w ↔ s.HoldsWord w := by
  rw [fetchWord_eq_some]
  constructor
  · rintro ⟨b0, b1, b2, b3, rfl, hbytes⟩
    exact ⟨b0, b1, b2, b3, hbytes, wordOfBytes_toNat b0 b1 b2 b3⟩
  · rintro ⟨b0, b1, b2, b3, hbytes, hw⟩
    exact ⟨b0, b1, b2, b3, BitVec.eq_of_toNat_eq ((wordOfBytes_toNat b0 b1 b2 b3).trans hw.symm), hbytes⟩

/-- Nothing is in the way of the fetch of a running machine. -/
theorem fetchInstr_of_running (s : State) (w : Word) (hr : s.Running) (hw : s.HoldsWord w) :
    s.fetchInstr = decodedOutcome s.pc w := by
  obtain ⟨haligned, hend⟩ := hr
  rw [State.fetchInstr, if_pos ((wordAligned_iff s.pc).2 haligned), if_neg hend, (fetchWord_iff_holdsWord s w).2 hw]

/-- A running machine executes the instruction its word decodes to. -/
theorem step_of_decodes (s : State) (w : Word) (i : Instr) (hr : s.Running) (hw : s.HoldsWord w)
    (hd : decodeWord w = .instr i) : step s = exec i s := by
  rw [step, fetchInstr_of_running s w hr hw, decodedOutcome, hd]

/-- A running machine that holds the word of a well-formed instruction executes it. -/
theorem step_of_encode (s : State) (i : Instr) (hi : i.wellFormed = true) (hr : s.Running)
    (hw : s.HoldsWord (encode i)) : step s = exec i s :=
  step_of_decodes s (encode i) i hr hw (decodeWord_encode i hi)

/-- Settles O8: `step_of_decodes`, and for the word of an instruction `decodeWord_encode`. -/
theorem stepRunsDecodedInstruction : Obligations.StepRunsDecodedInstruction :=
  ⟨step_of_decodes, step_of_encode⟩

/-! ## The step that traps (R171, R184) -/

/-- The trap condition in exact arithmetic. -/
theorem trapCondition_iff (trapOn : BitVec 5) (a b : Word) : trapCondition trapOn a b = true ↔ TrapHolds trapOn a b := by
  simp [trapCondition, TrapHolds, BitVec.slt, BitVec.ult, or_assoc]

/-- The exception is raised exactly where the condition holds. -/
theorem trapWhen_eq_exception_iff (s : State) (c : Bool) :
    s.trapWhen c = .fault (.exception { kind := .programTrap, raisedAt := s.pc, next := s.pc }) ↔ c = true := by
  cases c with
  | false => simp [trapWhen_not]
  | true => simp [trapWhen_trap, takeException_eq, State.exceptionRecord, State.resumeAddress]

/-- Settles O58: the step is `trapWhen` of the condition, by `step_of_encode`. -/
theorem trapTaken : Obligations.TrapTaken := by
  intro trapOn rA rB simm s hr e
  refine ⟨fun hw => ?_, fun hw => ?_⟩
  · rw [step_of_encode s _ rfl hr hw, ← trapCondition_iff]
    exact trapWhen_eq_exception_iff s _
  · rw [step_of_encode s _ rfl hr hw, ← trapCondition_iff]
    exact trapWhen_eq_exception_iff s _

end Sys2Proof.Machine
end

section
/-! PROOFS. The bits of a fetched word, what stops a step before it decodes, the state after reset, and the step at a
word that was placed. -/

namespace Sys2Proof

/-! ## The bytes of a word (R32) -/

/-- Byte `k` holds bits `8 * k` to `8 * k + 7` of the word. -/
theorem wordOfBytes_getMsbD (b0 b1 b2 b3 : Byte) (j : Nat) (hj : j < 8) :
    (wordOfBytes b0 b1 b2 b3).getMsbD j = b0.getMsbD j ∧ (wordOfBytes b0 b1 b2 b3).getMsbD (8 + j) = b1.getMsbD j ∧
    (wordOfBytes b0 b1 b2 b3).getMsbD (16 + j) = b2.getMsbD j ∧
    (wordOfBytes b0 b1 b2 b3).getMsbD (24 + j) = b3.getMsbD j := by
  simp only [wordOfBytes, BitVec.getMsbD_append]
  refine ⟨?_, ?_, ?_, ?_⟩
  · rw [if_neg (by omega), if_neg (by omega), if_neg (by omega)]
  · rw [if_neg (by omega), if_neg (by omega), if_pos (by omega), Nat.add_sub_cancel_left]
  · rw [if_neg (by omega), if_pos (by omega), Nat.add_sub_cancel_left]
  · rw [if_pos (by omega), Nat.add_sub_cancel_left]

/-- The table's 32 bits of a word are the word. -/
@[simp] theorem tableWord_toNat (w : Word) : tableWord 32 w.toNat = w := by
  rw [tableWord, Nat.mod_eq_of_lt w.isLt, BitVec.ofNat_toNat, BitVec.setWidth_eq]

end Sys2Proof

namespace Sys2Proof.Machine

/-- Four bytes at the pc are fetched as the word they form. -/
theorem fetchWord_of_holdsBytes (s : State) (b0 b1 b2 b3 : Byte) (h : s.HoldsBytes b0 b1 b2 b3) :
    s.fetchWord = some (wordOfBytes b0 b1 b2 b3) :=
  (fetchWord_eq_some s _).2 ⟨b0, b1, b2, b3, rfl, h⟩

/-- Settles O7: `fetchWord_iff_holdsWord`, and the bits of the word fetched are those of `wordOfBytes_getMsbD`. -/
theorem fetchBigEndian : Obligations.FetchBigEndian := by
  refine ⟨fetchWord_iff_holdsWord, fun s w b0 b1 b2 b3 hbytes hw j hj => ?_, by decide⟩
  have hfetched := fetchWord_of_holdsBytes s b0 b1 b2 b3 hbytes
  obtain rfl : wordOfBytes b0 b1 b2 b3 = w := Option.some.inj (hfetched.symm.trans hw)
  exact wordOfBytes_getMsbD b0 b1 b2 b3 j hj

/-! ## What stops a step before it decodes (R31, R33, R213) -/

/-- A misaligned pc is refused, whatever else holds. -/
theorem fetchInstr_of_misaligned (s : State) (h : s.pc.toNat % 4 ≠ 0) :
    s.fetchInstr = .refused (.misalignedPc s.pc) :=
  if_neg (mt (wordAligned_iff s.pc).1 h)

/-- An aligned pc at END_PC is the end of the run, before memory is looked at. -/
theorem fetchInstr_at_endPc (s : State) (ha : s.pc.toNat % 4 = 0) (he : s.endPc = some s.pc) :
    s.fetchInstr = .fault (.runEnded s.pc) := by
  rw [State.fetchInstr, if_pos ((wordAligned_iff s.pc).2 ha), if_pos he]

/-- Nothing is fetched exactly where memory holds no word. -/
theorem fetchWord_eq_none_iff (s : State) : s.fetchWord = none ↔ ∀ w, ¬ s.HoldsWord w := by
  simp only [Option.eq_none_iff_forall_ne_some, ne_eq, fetchWord_iff_holdsWord]

/-- A running machine without a word at its pc is stuck. -/
theorem fetchInstr_of_no_word (s : State) (hr : s.Running) (h : ∀ w, ¬ s.HoldsWord w) :
    s.fetchInstr = .fault (.stuck s.pc) := by
  obtain ⟨haligned, hend⟩ := hr
  rw [State.fetchInstr, if_pos ((wordAligned_iff s.pc).2 haligned), if_neg hend, (fetchWord_eq_none_iff s).2 h]

/-- Settles O9: a step without an instruction answers the outcome of its fetch. -/
theorem stopsBeforeDecoding : Obligations.StopsBeforeDecoding := by
  intro s
  refine ⟨fun hm => ?_, fun ha he => ?_, fun hr hw => ?_⟩
  · rw [step, fetchInstr_of_misaligned s hm]
  · rw [step, fetchInstr_at_endPc s ha he]
  · rw [step, fetchInstr_of_no_word s hr hw]

/-! ## After reset -/

/-- Settles O11: the memory by `reset_mem_wf`, the pc by its value, and OV is clear. -/
theorem resetInv : Obligations.ResetInv :=
  ⟨reset_mem_wf, by decide, by decide⟩

/-! ## The step at a word that was placed (log entry 15) -/

/-- Writing bytes that do not wrap leaves every address outside them as it was. -/
theorem read_writeBytes_outside (m : Memory) (a : Word) (bs : List Byte) (c : Nat)
    (hfit : a.toNat + bs.length ≤ 2 ^ 32) (hc : c < a.toNat ∨ a.toNat + bs.length ≤ c) :
    (m.writeBytes a bs).read c = m.read c := by
  induction bs generalizing m a with
  | nil => rfl
  | cons b bs ih =>
    rw [List.length_cons] at hfit hc
    have hnext : (a + 1).toNat = (a.toNat + 1) % 2 ^ 32 := BitVec.toNat_add a 1
    calc ((m.write a.toNat b).writeBytes (a + 1) bs).read c
        = (m.write a.toNat b).read c := ih _ _ (by omega) (by omega)
      _ = m.read c := read_write_ne m a.toNat c b (by omega)

/-- Placing a word leaves every byte outside its four as it was: an aligned word does not wrap. -/
theorem read_placeWord_outside (s : State) (w : Word) (c : Nat)
    (hc : c < (s.placeWord w).pc.toNat ∨ (s.placeWord w).pc.toNat + 4 ≤ c) :
    (s.placeWord w).mem.read c = s.mem.read c := by
  have hfit : (alignedDown s.pc).toNat + 4 ≤ 2 ^ 32 := by
    have := s.pc.isLt
    rw [alignedDown_toNat]
    omega
  exact read_writeBytes_outside s.mem (alignedDown s.pc) (bytesOfWord w) c hfit hc

/-- The step at a placed word executes the instruction the word decodes to. -/
theorem step_placeWord (s : State) (w : Word) (i : Instr) (h : decodeWord w = .instr i) :
    step (s.placeWord w) = exec i (s.placeWord w) := by
  rw [step, fetchInstr_placeWord, decodedOutcome, h]

/-- Placing the 32 bits of a word is placing the word. -/
theorem withFetchWord_toNat (s : State) (w : Word) : s.withFetchWord 32 w.toNat = s.placeWord w := by
  rw [State.withFetchWord, tableWord_toNat]

/-- Settles O13: the step is `step_placeWord` of the instruction's word, which decodes to it; the pc is
`alignedDown_toNat`, memory `read_placeWord_outside`, and `placeWord` has no other register in it. -/
theorem placedInstructionRuns : Obligations.PlacedInstructionRuns := by
  intro s i hi
  rw [withFetchWord_toNat]
  exact ⟨step_placeWord s (encode i) i (decodeWord_encode i hi), alignedDown_toNat s.pc, fun _ => rfl, rfl, rfl, rfl,
    rfl, read_placeWord_outside s (encode i)⟩

end Sys2Proof.Machine
end

section
/-! PROOFS. The word of each form by its fields, what the decoder gives for each kind of word, and the system call. -/

namespace Sys2Proof

/-! ## A word is of a form exactly when its fields are those of the form (R46 to R51) -/

theorem dForm_eq_iff (op : BitVec 6) (d a : Reg) (imm : BitVec 16) (w : Word) :
    dForm op d a imm = w ↔ (fieldOpcd w).toNat = op.toNat ∧ fieldD w = d ∧ fieldA w = a ∧ fieldImm w = imm := by
  simp only [← BitVec.toNat_inj, Fin.ext_iff, dForm_toNat, fieldOpcd_toNat, fieldD_val, fieldA_val, fieldImm_toNat]
  omega

theorem dCompareForm_eq_iff (op : BitVec 6) (k : CrIndex) (l : Bool) (a : Reg) (imm : BitVec 16) (w : Word) :
    dCompareForm op k l a imm = w ↔ (fieldOpcd w).toNat = op.toNat ∧ fieldCrfD w = k ∧ fieldBit9 w = false ∧
      fieldL w = l ∧ fieldA w = a ∧ fieldImm w = imm := by
  have := l.toNat_lt
  simp only [← BitVec.toNat_inj, Fin.ext_iff, dCompareForm_toNat, fieldOpcd_toNat, fieldCrfD_val, fieldBit9_eq_iff,
    fieldL_eq_iff, fieldA_val, fieldImm_toNat, Bool.toNat_false]
  omega

theorem dTrapForm_eq_iff (op : BitVec 6) (trapOn : BitVec 5) (a : Reg) (imm : BitVec 16) (w : Word) :
    dTrapForm op trapOn a imm = w ↔
      (fieldOpcd w).toNat = op.toNat ∧ fieldTo w = trapOn ∧ fieldA w = a ∧ fieldImm w = imm := by
  simp only [← BitVec.toNat_inj, Fin.ext_iff, dTrapForm_toNat, fieldOpcd_toNat, fieldTo_toNat, fieldA_val,
    fieldImm_toNat]
  omega

theorem xoForm_eq_iff (d a b : Reg) (oe : Bool) (xo : BitVec 9) (rc : Bool) (w : Word) :
    xoForm d a b oe xo rc = w ↔ (fieldOpcd w).toNat = 31 ∧ fieldD w = d ∧ fieldA w = a ∧ fieldB w = b ∧
      fieldOe w = oe ∧ (fieldXo9 w).toNat = xo.toNat ∧ fieldRc w = rc := by
  have := oe.toNat_lt
  have := rc.toNat_lt
  simp only [← BitVec.toNat_inj, Fin.ext_iff, xoForm_toNat, fieldOpcd_toNat, fieldD_val, fieldA_val, fieldB_val,
    fieldOe_eq_iff, fieldXo9_toNat, fieldRc_eq_iff]
  omega

theorem xForm_eq_iff (s a b : Fin 32) (xo : BitVec 10) (rc : Bool) (w : Word) :
    xForm s a b xo rc = w ↔ (fieldOpcd w).toNat = 31 ∧ fieldD w = s ∧ fieldA w = a ∧ fieldB w = b ∧
      (fieldXo10 w).toNat = xo.toNat ∧ fieldRc w = rc := by
  have := rc.toNat_lt
  simp only [← BitVec.toNat_inj, Fin.ext_iff, xForm_toNat, fieldOpcd_toNat, fieldD_val, fieldA_val, fieldB_val,
    fieldXo10_toNat, fieldRc_eq_iff]
  omega

theorem xCompareForm_eq_iff (k : CrIndex) (l : Bool) (a b : Reg) (xo : BitVec 10) (w : Word) :
    xCompareForm k l a b xo = w ↔ (fieldOpcd w).toNat = 31 ∧ fieldCrfD w = k ∧ fieldBit9 w = false ∧ fieldL w = l ∧
      fieldA w = a ∧ fieldB w = b ∧ (fieldXo10 w).toNat = xo.toNat ∧ fieldRc w = false := by
  have := l.toNat_lt
  simp only [← BitVec.toNat_inj, Fin.ext_iff, xCompareForm_toNat, fieldOpcd_toNat, fieldCrfD_val, fieldBit9_eq_iff,
    fieldL_eq_iff, fieldA_val, fieldB_val, fieldXo10_toNat, fieldRc_eq_iff, Bool.toNat_false]
  omega

theorem xTrapForm_eq_iff (trapOn : BitVec 5) (a b : Reg) (xo : BitVec 10) (w : Word) :
    xTrapForm trapOn a b xo = w ↔ (fieldOpcd w).toNat = 31 ∧ fieldTo w = trapOn ∧ fieldA w = a ∧ fieldB w = b ∧
      (fieldXo10 w).toNat = xo.toNat ∧ fieldRc w = false := by
  simp only [← BitVec.toNat_inj, Fin.ext_iff, xTrapForm_toNat, fieldOpcd_toNat, fieldTo_toNat, fieldA_val, fieldB_val,
    fieldXo10_toNat, fieldRc_eq_iff, Bool.toNat_false]
  omega

theorem mForm_eq_iff (op : BitVec 6) (s a b mb me : Fin 32) (rc : Bool) (w : Word) :
    mForm op s a b mb me rc = w ↔ (fieldOpcd w).toNat = op.toNat ∧ fieldD w = s ∧ fieldA w = a ∧ fieldB w = b ∧
      fieldMb w = mb ∧ fieldMe w = me ∧ fieldRc w = rc := by
  have := rc.toNat_lt
  simp only [← BitVec.toNat_inj, Fin.ext_iff, mForm_toNat, fieldOpcd_toNat, fieldD_val, fieldA_val, fieldB_val,
    fieldMb_val, fieldMe_val, fieldRc_eq_iff]
  omega

/-! ## An instruction that is decoded has the word decoded (R55) -/

/-- If the word `w` is given the meaning `d` and `d` is an instruction, that instruction is well-formed and has the word
`w`. -/
def Decoded.Inverts (w : Word) (d : Decoded) : Prop := ∀ i, d = .instr i → encode i = w ∧ i.wellFormed = true

@[simp] theorem inverts_instr (w : Word) (i : Instr) :
    (Decoded.instr i).Inverts w ↔ encode i = w ∧ i.wellFormed = true := by
  simp [Decoded.Inverts]

@[simp] theorem inverts_refused (w : Word) : Decoded.refused.Inverts w := nofun

@[simp] theorem inverts_unlessReserved (w : Word) (b : Bool) (d : Decoded) :
    (unlessReserved b d).Inverts w ↔ (b = false → d.Inverts w) := by
  cases b <;> simp [unlessReserved, Decoded.Inverts]

@[simp] theorem inverts_selectRc (w : Word) (plain record : Instr) :
    (selectRc w plain record).Inverts w ↔
      (fieldRc w = false → (Decoded.instr plain).Inverts w) ∧
      (fieldRc w = true → (Decoded.instr record).Inverts w) := by
  cases h : fieldRc w <;> simp [selectRc, h]

@[simp] theorem inverts_selectOeRc (w : Word) (plain record overflow overflowRecord : Instr) :
    (selectOeRc w plain record overflow overflowRecord).Inverts w ↔
      (fieldOe w = false → (selectRc w plain record).Inverts w) ∧
      (fieldOe w = true → (selectRc w overflow overflowRecord).Inverts w) := by
  cases h : fieldOe w <;> simp [selectOeRc, h]

/-- Each arm of the XO-form table: the fields the arm looked at and the operands it took are those of the form of its
instruction. -/
theorem decodeXoForm_inverts (w : Word) (hop : (fieldOpcd w).toNat = 31) : (decodeXoForm w).Inverts w := by
  unfold decodeXoForm
  split <;> simp +contextual [encode, xoForm_eq_iff, Instr.wellFormed, *]

/-- The same for the X-form table, whose last arm is the XO-form table. -/
theorem decodeExtended_inverts (w : Word) (hop : (fieldOpcd w).toNat = 31) : (decodeExtended w).Inverts w := by
  unfold decodeExtended
  split
  case h_19 => exact decodeXoForm_inverts w hop
  all_goals simp +contextual [encode, xForm_eq_iff, xCompareForm_eq_iff, xTrapForm_eq_iff, Instr.wellFormed, *]

/-- The primary opcodes: 17 has the one word of `sc`, 31 the extended tables, and every other arm one form. -/
theorem decodeWord_inverts (w : Word) : (decodeWord w).Inverts w := by
  unfold decodeWord
  split
  case h_10 =>
    split
    · rw [inverts_unlessReserved, inverts_instr]
      exact fun hw => ⟨(bne_eq_false_iff_eq.1 hw).symm, rfl⟩
    · exact inverts_refused w
  case h_20 hop => exact decodeExtended_inverts w hop
  all_goals
    simp +contextual [encode, dForm_eq_iff, dCompareForm_eq_iff, dTrapForm_eq_iff, mForm_eq_iff, Instr.wellFormed, *]

/-- Settles O2: `decodeWord_encode`, and the bytes of a word decode as the word. -/
theorem decodeOfEncode : Obligations.DecodeOfEncode := by
  intro i hi
  rw [Machine.decodeBytes_bytesOfWord]
  exact ⟨decodeWord_encode i hi, decodeWord_encode i hi⟩

/-- Settles O3: `decodeWord_inverts`, the walk over the opcode tables. -/
theorem encodeOfDecode : Obligations.EncodeOfDecode := decodeWord_inverts

/-- Settles O1: fourteen literal words, decoded by evaluation. -/
theorem decodeSampleWords : Obligations.DecodeSampleWords := by
  unfold Obligations.DecodeSampleWords
  decide

/-! ## Refused words (R62) -/

@[simp] theorem unlessReserved_eq_refused_iff (b : Bool) (d : Decoded) :
    unlessReserved b d = .refused ↔ b = false ∧ d = .refused := by
  cases b <;> simp [unlessReserved]

@[simp] theorem selectRc_ne_refused (w : Word) (plain record : Instr) : selectRc w plain record ≠ .refused := nofun

@[simp] theorem selectOeRc_ne_refused (w : Word) (plain record overflow overflowRecord : Instr) :
    selectOeRc w plain record overflow overflowRecord ≠ .refused := by
  unfold selectOeRc
  split <;> exact selectRc_ne_refused _ _ _

end Sys2Proof

namespace Sys2Proof.Machine

/-! ## The opcodes and bits of the statements are fields of the decoder (R46) -/

@[simp] theorem opcdOf_eq (w : Word) : opcdOf w = (fieldOpcd w).toNat := (fieldOpcd_toNat w).symm

@[simp] theorem xo10Of_eq (w : Word) : xo10Of w = (fieldXo10 w).toNat := (fieldXo10_toNat w).symm

@[simp] theorem xo9Of_eq (w : Word) : xo9Of w = (fieldXo9 w).toNat := (fieldXo9_toNat w).symm

@[simp] theorem rBOf_eq (w : Word) : rBOf w = (fieldB w).val := (fieldB_val w).symm

theorem getMsbD_9_eq_fieldBit9 (w : Word) : w.getMsbD 9 = fieldBit9 w := rfl
theorem getMsbD_10_eq_fieldL (w : Word) : w.getMsbD 10 = fieldL w := rfl
theorem getMsbD_21_eq_fieldOe (w : Word) : w.getMsbD 21 = fieldOe w := rfl
theorem getMsbD_30_eq_getLsbD_1 (w : Word) : w.getMsbD 30 = w.getLsbD 1 := rfl
theorem getMsbD_31_eq_fieldRc (w : Word) : w.getMsbD 31 = fieldRc w := rfl

/-- Only the last arm of the XO-form table refuses. -/
theorem decodeXoForm_eq_refused_iff (w : Word) : decodeXoForm w = .refused ↔ (fieldXo9 w).toNat ∉ xoFormOpcodes := by
  unfold decodeXoForm
  split <;> simp_all [xoFormOpcodes]

/-- Only the last arm of the X-form table can refuse, and there the XO-form table decides. -/
theorem decodeExtended_eq_refused_iff (w : Word) :
    decodeExtended w = .refused ↔ (fieldXo10 w).toNat ∉ xFormOpcodes ∧ (fieldXo9 w).toNat ∉ xoFormOpcodes := by
  rw [← decodeXoForm_eq_refused_iff]
  unfold decodeExtended
  split <;> simp_all [xFormOpcodes]

/-- The arms of opcodes 17 and 31 refuse by bit 30 and by the extended opcodes, the last arm always, no other arm. -/
theorem decodeWord_eq_refused_iff (w : Word) :
    decodeWord w = .refused ↔
      ¬ ((fieldOpcd w).toNat ∈ primaryOpcodes ∨ ((fieldOpcd w).toNat = 17 ∧ w.getLsbD 1 = true) ∨
        ((fieldOpcd w).toNat = 31 ∧ ((fieldXo10 w).toNat ∈ xFormOpcodes ∨ (fieldXo9 w).toNat ∈ xoFormOpcodes))) := by
  unfold decodeWord
  split <;> simp_all [primaryOpcodes, decodeExtended_eq_refused_iff]

/-- A running machine that holds a refused word answers so. -/
theorem step_of_refused (w : Word) (s : State) (hd : decodeWord w = .refused) (hr : s.Running) (hw : s.HoldsWord w) :
    step s = .refused (.refusedWord s.pc w) := by
  rw [step, fetchInstr_of_running s w hr hw, decodedOutcome, hd]

/-- Settles O6: `decodeWord_eq_refused_iff` and `step_of_refused`. -/
theorem refusedWords : Obligations.RefusedWords := by
  refine ⟨fun w => ?_, step_of_refused⟩
  rw [decodeWord_eq_refused_iff, opcdOf_eq, xo10Of_eq, xo9Of_eq, getMsbD_30_eq_getLsbD_1]

/-! ## Invalid forms (R60, R61) -/

@[simp] theorem unlessReserved_true (d : Decoded) : unlessReserved true d = .invalidForm := rfl

/-- A running machine that holds an invalid form answers so. -/
theorem step_of_invalidForm (w : Word) (s : State) (hd : decodeWord w = .invalidForm) (hr : s.Running)
    (hw : s.HoldsWord w) : step s = .fault (.invalidForm s.pc w) := by
  rw [step, fetchInstr_of_running s w hr hw, decodedOutcome, hd]

/-- Primary opcode 31 is looked up by the extended opcodes. -/
theorem decodeWord_of_opcd_31 (w : Word) (hop : opcdOf w = 31) : decodeWord w = decodeExtended w := by
  rw [opcdOf_eq] at hop
  simp only [decodeWord, hop]

/-- A 9-bit extended opcode of the XO-form table is the low part of no X-form opcode, so its words are all XO-form. -/
theorem decodeWord_of_xo9 (w : Word) (hop : opcdOf w = 31) (hxo : xo9Of w ∈ xoFormOpcodes) :
    decodeWord w = decodeXoForm w := by
  have disjoint : ∀ x ∈ xFormOpcodes, x % 512 ∉ xoFormOpcodes := by decide
  have hlow : xo10Of w % 512 = xo9Of w := by
    rw [xo10Of, xo9Of]
    omega
  have hx : xo10Of w ∉ xFormOpcodes := fun hx => disjoint _ hx (hlow ▸ hxo)
  rw [decodeWord_of_opcd_31 w hop]
  unfold decodeExtended
  split <;> simp_all [xFormOpcodes]

/-- The word's opcodes select one of the four compares (R56, R57). -/
def SelectsCompare (w : Word) : Prop :=
  opcdOf w = 10 ∨ opcdOf w = 11 ∨ (opcdOf w = 31 ∧ (xo10Of w = 0 ∨ xo10Of w = 32))

/-- Bits 9 and 10 of a compare. -/
theorem decodeWord_compare_reserved (w : Word) (hsel : SelectsCompare w) (h : (fieldBit9 w || fieldL w) = true) :
    decodeWord w = .invalidForm := by
  obtain hop | hop | ⟨hop, hxo⟩ := hsel
  · rw [opcdOf_eq] at hop
    simp [decodeWord, hop, h]
  · rw [opcdOf_eq] at hop
    simp [decodeWord, hop, h]
  · rw [decodeWord_of_opcd_31 w hop]
    rw [xo10Of_eq] at hxo
    obtain hxo | hxo := hxo <;> simp [decodeExtended, hxo, h]

/-- `cmp`, `cmpl` and `tw` have no Rc bit. -/
theorem decodeWord_bit31_reserved (w : Word) (hop : opcdOf w = 31)
    (hxo : xo10Of w = 0 ∨ xo10Of w = 32 ∨ xo10Of w = 4) (h : w.getMsbD 31 = true) : decodeWord w = .invalidForm := by
  rw [decodeWord_of_opcd_31 w hop]
  rw [getMsbD_31_eq_fieldRc] at h
  rw [xo10Of_eq] at hxo
  obtain hxo | hxo | hxo := hxo <;> simp [decodeExtended, hxo, h]

/-- A nonzero rB field, as the decoder asks for it. -/
theorem fieldB_bne_zero (w : Word) (h : rBOf w ≠ 0) : (fieldB w != 0) = true :=
  bne_iff_ne.2 fun h0 => h (by rw [rBOf_eq, h0]; rfl)

/-- `cntlzw`, `extsh` and `extsb` have no rB. -/
theorem decodeWord_xForm_rB_reserved (w : Word) (hop : opcdOf w = 31) (hxo : xo10Of w ∈ [26, 922, 954])
    (h : rBOf w ≠ 0) : decodeWord w = .invalidForm := by
  rw [decodeWord_of_opcd_31 w hop]
  simp only [xo10Of_eq, List.mem_cons, List.not_mem_nil, or_false] at hxo
  obtain hxo | hxo | hxo := hxo <;> simp only [decodeExtended, hxo, fieldB_bne_zero w h, unlessReserved_true]

/-- `neg`, `subfze`, `addze`, `subfme` and `addme` have no rB. -/
theorem decodeWord_xoForm_rB_reserved (w : Word) (hop : opcdOf w = 31) (hxo : xo9Of w ∈ [104, 200, 202, 232, 234])
    (h : rBOf w ≠ 0) : decodeWord w = .invalidForm := by
  have inTable : [104, 200, 202, 232, 234] ⊆ xoFormOpcodes := by decide
  rw [decodeWord_of_xo9 w hop (inTable hxo)]
  simp only [xo9Of_eq, List.mem_cons, List.not_mem_nil, or_false] at hxo
  obtain hxo | hxo | hxo | hxo | hxo := hxo <;>
    simp only [decodeXoForm, hxo, fieldB_bne_zero w h, unlessReserved_true]

/-- `mulhwu` and `mulhw` have no OE bit. -/
theorem decodeWord_bit21_reserved (w : Word) (hop : opcdOf w = 31) (hxo : xo9Of w ∈ [11, 75])
    (h : w.getMsbD 21 = true) : decodeWord w = .invalidForm := by
  have inTable : [11, 75] ⊆ xoFormOpcodes := by decide
  rw [decodeWord_of_xo9 w hop (inTable hxo)]
  rw [getMsbD_21_eq_fieldOe] at h
  simp only [xo9Of_eq, List.mem_cons, List.not_mem_nil, or_false] at hxo
  obtain hxo | hxo := hxo <;> simp only [decodeXoForm, hxo, h, unlessReserved_true]

/-- `sc` is one word. -/
theorem decodeWord_sc_reserved (w : Word) (hop : opcdOf w = 17) (hsc : w.getMsbD 30 = true) (h : w ≠ 0x44000002) :
    decodeWord w = .invalidForm := by
  have hne : (w != 0x44000002) = true := bne_iff_ne.2 h
  rw [opcdOf_eq] at hop
  rw [getMsbD_30_eq_getLsbD_1] at hsc
  simp only [decodeWord, hop, hsc, if_true, hne, unlessReserved_true]

/-- Settles O4: L is one of the reserved bits of `decodeWord_compare_reserved`. -/
theorem compareWithLInvalid : Obligations.CompareWithLInvalid := by
  intro w hsel hl
  have hd : decodeWord w = .invalidForm :=
    decodeWord_compare_reserved w hsel (by rw [← getMsbD_10_eq_fieldL, hl, Bool.or_true])
  exact ⟨hd, fun s => step_of_invalidForm w s hd⟩

/-- Settles O5: one lemma for each clause's reserved field, and `step_of_invalidForm`. -/
theorem reservedBitsInvalid : Obligations.ReservedBitsInvalid := by
  refine ⟨fun w h => ?_, step_of_invalidForm⟩
  obtain ⟨hsel, hbit⟩ | ⟨hop, hxo, hbit⟩ | ⟨hop, hxo, hb⟩ | ⟨hop, hxo, hb⟩ | ⟨hop, hxo, hbit⟩ | ⟨hop, hbit, hw⟩ := h
  · exact decodeWord_compare_reserved w hsel (by rw [← getMsbD_9_eq_fieldBit9, hbit, Bool.true_or])
  · exact decodeWord_bit31_reserved w hop hxo hbit
  · exact decodeWord_xoForm_rB_reserved w hop hxo hb
  · exact decodeWord_xForm_rB_reserved w hop hxo hb
  · exact decodeWord_bit21_reserved w hop hxo hbit
  · exact decodeWord_sc_reserved w hop hbit hw

/-! ## The system call (R170, R183) -/

/-- An exception is raised by the instruction whose footprint names its kind. -/
theorem footprint_raises_of_exec (i : Instr) (s : State) (e : ExceptionRecord)
    (h : exec i s = .fault (.exception e)) : (footprint i).raises = some e.kind := by
  obtain ⟨k, hk, he⟩ | ⟨-, he⟩ := exec_fault i s _ h
  · cases he
    exact hk
  · cases he

/-- Settles O55: `exec` of `sc` is the exception, its step is that execution, and of the instructions that raise one
(`footprint_raises`) the traps raise another kind. -/
theorem systemCall : Obligations.SystemCall := by
  refine ⟨rfl, fun s => ⟨rfl, fun hr hw => step_of_encode s .sc rfl hr hw⟩, fun i s e h hk => ?_⟩
  obtain ⟨hi, -⟩ | ⟨-, htrap⟩ := footprint_raises i e.kind (footprint_raises_of_exec i s e h)
  · exact hi
  · rw [hk] at htrap
    cases htrap

end Sys2Proof.Machine
end

section
/-! PROOFS. The add family: the sum of three addends and its carry in exact arithmetic, and the variants of one sum. -/

namespace Sys2Proof.Machine

/-! ## The encodings of the four variants (R46) -/

/-- Four words of the XO-form that differ in OE and Rc alone. -/
theorem encodedXo_of_xoForm {plain record overflow overflowRecord : Instr} (d a b : Reg) (xo : BitVec 9)
    (hp : encode plain = xoForm d a b false xo false) (hr : encode record = xoForm d a b false xo true)
    (ho : encode overflow = xoForm d a b true xo false) (hor : encode overflowRecord = xoForm d a b true xo true) :
    EncodedXo plain record overflow overflowRecord d.val a.val b.val xo.toNat := by
  rw [EncodedXo, hp, hr, ho, hor]
  exact ⟨xoForm_toNat .., xoForm_toNat .., xoForm_toNat .., xoForm_toNat ..⟩

/-! ## The sum of three addends (R16, R17, R70) -/

/-- The sum is the exact unsigned sum modulo 2^32. -/
theorem sum32_eq_ofNat (x y : Word) (c : Bool) : sum32 x y c = BitVec.ofNat 32 (x.toNat + y.toNat + c.toNat) :=
  BitVec.eq_of_toNat_eq (by rw [sum32_toNat, BitVec.toNat_ofNat])

/-- The sum is the exact signed sum modulo 2^32. -/
theorem sum32_eq_ofInt (x y : Word) (c : Bool) : sum32 x y c = BitVec.ofInt 32 (x.toInt + y.toInt + c.toNat) := by
  rw [BitVec.ofInt_add, BitVec.ofInt_add, BitVec.ofInt_toInt, BitVec.ofInt_toInt]
  cases c <;> rfl

/-- Without a carry in, the sum of two words. -/
theorem sum32_false (x y : Word) : sum32 x y false = x + y := BitVec.add_zero (x + y)

/-- Without a carry in, the exact signed sum of two words modulo 2^32. -/
theorem sum32_false_eq_ofInt (x y : Word) : sum32 x y false = BitVec.ofInt 32 (x.toInt + y.toInt) := by
  rw [sum32_eq_ofInt, Bool.toNat_false, Int.natCast_zero, Int.add_zero]

/-- The sum with 0. -/
theorem sum32_zero (x : Word) (c : Bool) : sum32 x 0#32 c = BitVec.ofInt 32 (x.toInt + c.toNat) := by
  rw [sum32_eq_ofInt, BitVec.toInt_zero, Int.add_zero]

/-- The sum with -1. -/
theorem sum32_minusOne (x : Word) (c : Bool) : sum32 x 0xFFFFFFFF#32 c = BitVec.ofInt 32 (x.toInt - 1 + c.toNat) :=
  sum32_eq_ofInt x 0xFFFFFFFF#32 c

/-- `¬a + b + c` is `b - a - 1 + c`. -/
theorem sum32_not (a b : Word) (c : Bool) :
    sum32 (~~~a) b c = BitVec.ofInt 32 (b.toInt - a.toInt - 1 + c.toNat) := by
  rw [sum32_eq_ofInt, not_toInt]
  exact congrArg (BitVec.ofInt 32) (by omega)

/-- `¬a + b + 1` is the exact signed difference modulo 2^32. -/
theorem sum32_not_true (a b : Word) : sum32 (~~~a) b true = BitVec.ofInt 32 (b.toInt - a.toInt) := by
  rw [sum32_not]
  exact congrArg (BitVec.ofInt 32) (by simp)

/-- `¬a + b + 1` is the difference of the words. -/
theorem sum32_not_true_eq_sub (a b : Word) : sum32 (~~~a) b true = b - a := by
  rw [sum32_not_true, Int.sub_eq_add_neg, BitVec.ofInt_add, BitVec.ofInt_neg, BitVec.ofInt_toInt, BitVec.ofInt_toInt,
    BitVec.sub_eq_add_neg]

/-- The carry and the sum together are the exact unsigned sum. -/
theorem carryOut_add_sum32 (x y : Word) (c : Bool) :
    (carryOut x y c).toNat * 2 ^ 32 + (sum32 x y c).toNat = x.toNat + y.toNat + c.toNat := by
  have hx := x.isLt
  have hy := y.isLt
  have hc := c.toNat_lt
  rw [sum32_toNat, carryOut]
  by_cases h : 2 ^ 32 ≤ x.toNat + y.toNat + c.toNat
  · rw [decide_eq_true h, Bool.toNat_true]
    omega
  · rw [decide_eq_false h, Bool.toNat_false]
    omega

/-- Of the negations only that of the least word overflows. -/
theorem sumOverflows_neg (a : Word) : sumOverflows (~~~a) 0#32 true = decide (a = 0x80000000#32) := by
  have hmin : a = 0x80000000#32 ↔ a.toInt = -2147483648 := by rw [← BitVec.toInt_inj]; rfl
  have hlow := a.le_toInt
  have hhigh := a.toInt_lt
  rw [sumOverflows_not_true, Bool.eq_iff_iff]
  simp only [unrepresentable, hmin, BitVec.toInt_zero, Bool.or_eq_true, decide_eq_true_iff]
  omega

/-! ## The variants of one sum (R5, R15, R16) -/

/-- What an instruction does that is the sum of `x`, `y` and `c`, of value `r`. -/
theorem completes_of_sumInto {i : Instr} {s : State} (setsCa oe rc : Bool) (d : Reg) (x y : Word) (c : Bool) {r : Word}
    (hi : exec i s = .next (s.sumInto setsCa oe rc d x y c)) (hr : sum32 x y c = r) :
    Completes i s
      { target := some (d, r), ca := whenEnabled setsCa (carryOut x y c), ov := whenEnabled oe (sumOverflows x y c),
        cr := whenEnabled rc (0, signOrder r) } := by
  rw [← ovf32_eq, ← hr]
  exact ⟨_, hi, sumInto_holds s setsCa oe rc d x y c⟩

/-- The two variants by Rc of one sum. -/
theorem completesRc_of_sumInto {plain record : Instr} {s : State} (setsCa : Bool) (d : Reg) (x y : Word) (c : Bool)
    {r : Word} (hplain : exec plain s = .next (s.sumInto setsCa false false d x y c))
    (hrecord : exec record s = .next (s.sumInto setsCa false true d x y c)) (hr : sum32 x y c = r) :
    CompletesRc plain record s { target := some (d, r), ca := whenEnabled setsCa (carryOut x y c) } r :=
  ⟨completes_of_sumInto _ _ _ _ _ _ _ hplain hr, completes_of_sumInto _ _ _ _ _ _ _ hrecord hr⟩

/-- The four variants by OE and Rc of one sum. -/
theorem completesOeRc_of_sumInto {plain record overflow overflowRecord : Instr} {s : State} (setsCa : Bool) (d : Reg)
    (x y : Word) (c : Bool) {r : Word}
    (hplain : exec plain s = .next (s.sumInto setsCa false false d x y c))
    (hrecord : exec record s = .next (s.sumInto setsCa false true d x y c))
    (hoverflow : exec overflow s = .next (s.sumInto setsCa true false d x y c))
    (hboth : exec overflowRecord s = .next (s.sumInto setsCa true true d x y c)) (hr : sum32 x y c = r) :
    CompletesOeRc plain record overflow overflowRecord s
      { target := some (d, r), ca := whenEnabled setsCa (carryOut x y c) } r (sumOverflows x y c) :=
  ⟨completesRc_of_sumInto _ _ _ _ _ hplain hrecord hr,
    completes_of_sumInto _ _ _ _ _ _ _ hoverflow hr, completes_of_sumInto _ _ _ _ _ _ _ hboth hr⟩

end Sys2Proof.Machine
end

section
/-! PROOFS. The adds and subtracts of spec/40_integer_add_subtract.md, each the sum of its three addends. -/

namespace Sys2Proof.Machine

/-! ## Immediate operands (R71, R72, R75 to R77) -/

/-- (rA|0) as a signed number. -/
theorem readGprOrZero_toInt (s : State) (r : Reg) :
    (s.readGprOrZero r).toInt = if r = 0 then 0 else (s.readGpr r).toInt := apply_ite BitVec.toInt _ _ _

/-- (rA|0) as a number. -/
theorem readGprOrZero_toNat (s : State) (r : Reg) :
    (s.readGprOrZero r).toNat = if r = 0 then 0 else (s.readGpr r).toNat := apply_ite BitVec.toNat _ _ _

/-- Sign extension keeps the signed number. -/
theorem signExtended_toInt (imm : BitVec 16) : (signExtended imm).toInt = imm.toInt :=
  BitVec.toInt_signExtend_of_le (by omega)

/-- `SIMM || 0x0000` as a number. -/
theorem shiftedImmediate_toNat (imm : BitVec 16) : (shiftedImmediate imm).toNat = imm.toNat * 65536 := by
  rw [shiftedImmediate, toNat_append_add, BitVec.toNat_zero]
  omega

/-- Settles O20: the signed sum of (rA|0) and SIMM. -/
theorem addImmediate : Obligations.AddImmediate := by
  intro rD rA simm s
  refine ⟨dForm_toNat .., completes_of_sumInto false false false rD (s.readGprOrZero rA) (signExtended simm) false rfl ?_⟩
  rw [sum32_false_eq_ofInt, readGprOrZero_toInt, signExtended_toInt]

/-- Settles O21: the unsigned sum of (rA|0) and SIMM * 65536. -/
theorem addImmediateShifted : Obligations.AddImmediateShifted := by
  intro rD rA simm s
  refine ⟨dForm_toNat ..,
    completes_of_sumInto false false false rD (s.readGprOrZero rA) (shiftedImmediate simm) false rfl ?_⟩
  rw [sum32_eq_ofNat, readGprOrZero_toNat, shiftedImmediate_toNat, Bool.toNat_false, Nat.add_zero]

/-- Settles O24: the signed sum of (rA) and SIMM, with CA; the sign-extended SIMM is `BitVec.ofInt 32 simm.toInt` by
definition. -/
theorem addImmediateCarrying : Obligations.AddImmediateCarrying := by
  intro rD rA simm s
  refine ⟨dForm_toNat .., dForm_toNat ..,
    completesRc_of_sumInto true rD (s.readGpr rA) (signExtended simm) false rfl rfl ?_⟩
  rw [sum32_false_eq_ofInt, signExtended_toInt]

/-- Settles O25: `¬(rA) + SIMM + 1` is the signed difference. -/
theorem subtractFromImmediateCarrying : Obligations.SubtractFromImmediateCarrying := by
  intro rD rA simm s
  refine ⟨dForm_toNat .., completes_of_sumInto true false false rD (~~~s.readGpr rA) (signExtended simm) true rfl ?_⟩
  rw [sum32_not_true, signExtended_toInt]

/-! ## Register operands (R73, R74, R78 to R81) -/

/-- Settles O22: the sum without a carry in, CA left alone. -/
theorem addRegisters : Obligations.AddRegisters := fun rD rA rB s =>
  ⟨encodedXo_of_xoForm rD rA rB 266 rfl rfl rfl rfl,
    completesOeRc_of_sumInto false rD (s.readGpr rA) (s.readGpr rB) false rfl rfl rfl rfl (sum32_false _ _)⟩

/-- Settles O23: `¬(rA) + (rB) + 1` is the difference, CA left alone. -/
theorem subtractFrom : Obligations.SubtractFrom := fun rD rA rB s =>
  ⟨encodedXo_of_xoForm rD rA rB 40 rfl rfl rfl rfl,
    completesOeRc_of_sumInto false rD (~~~s.readGpr rA) (s.readGpr rB) true rfl rfl rfl rfl (sum32_not_true_eq_sub _ _)⟩

/-- Settles O26: the sum without a carry in, with CA. -/
theorem addCarrying : Obligations.AddCarrying := fun rD rA rB s =>
  ⟨encodedXo_of_xoForm rD rA rB 10 rfl rfl rfl rfl,
    completesOeRc_of_sumInto true rD (s.readGpr rA) (s.readGpr rB) false rfl rfl rfl rfl (sum32_false _ _)⟩

/-- Settles O27: `¬(rA) + (rB) + 1` is the difference, with CA. -/
theorem subtractFromCarrying : Obligations.SubtractFromCarrying := fun rD rA rB s =>
  ⟨encodedXo_of_xoForm rD rA rB 8 rfl rfl rfl rfl,
    completesOeRc_of_sumInto true rD (~~~s.readGpr rA) (s.readGpr rB) true rfl rfl rfl rfl (sum32_not_true_eq_sub _ _)⟩

/-- Settles O28: the sum with the CA read before as carry in. -/
theorem addExtended : Obligations.AddExtended := fun rD rA rB s =>
  ⟨encodedXo_of_xoForm rD rA rB 138 rfl rfl rfl rfl,
    completesOeRc_of_sumInto true rD (s.readGpr rA) (s.readGpr rB) s.ca rfl rfl rfl rfl (sum32_eq_ofNat _ _ _)⟩

/-- Settles O29: `¬(rA) + (rB) + CA`, with the CA read before. -/
theorem subtractFromExtended : Obligations.SubtractFromExtended := fun rD rA rB s =>
  ⟨encodedXo_of_xoForm rD rA rB 136 rfl rfl rfl rfl,
    completesOeRc_of_sumInto true rD (~~~s.readGpr rA) (s.readGpr rB) s.ca rfl rfl rfl rfl (sum32_not _ _ _)⟩

/-! ## One register operand (R82 to R86) -/

/-- Settles O30: the second addend is -1, the first (rA) or its complement. -/
theorem minusOneExtended : Obligations.MinusOneExtended := by
  intro rD rA s
  refine ⟨encodedXo_of_xoForm rD rA 0 234 rfl rfl rfl rfl, encodedXo_of_xoForm rD rA 0 232 rfl rfl rfl rfl,
    completesOeRc_of_sumInto true rD (s.readGpr rA) 0xFFFFFFFF#32 s.ca rfl rfl rfl rfl ?_,
    completesOeRc_of_sumInto true rD (~~~s.readGpr rA) 0xFFFFFFFF#32 s.ca rfl rfl rfl rfl ?_⟩
  · exact sum32_minusOne _ _
  · rw [sum32_minusOne, not_toInt, Int.sub_sub]
    rfl

/-- Settles O31: the second addend is 0, the first (rA) or its complement. -/
theorem addToZeroExtended : Obligations.ZeroExtended := by
  intro rD rA s
  refine ⟨encodedXo_of_xoForm rD rA 0 202 rfl rfl rfl rfl, encodedXo_of_xoForm rD rA 0 200 rfl rfl rfl rfl,
    completesOeRc_of_sumInto true rD (s.readGpr rA) 0#32 s.ca rfl rfl rfl rfl ?_,
    completesOeRc_of_sumInto true rD (~~~s.readGpr rA) 0#32 s.ca rfl rfl rfl rfl ?_⟩
  · exact sum32_zero _ _
  · rw [sum32_zero, not_toInt]
    rfl

/-- Settles O32: `¬(rA) + 0 + 1` is the negation, which overflows at the least word alone. -/
theorem negate : Obligations.Negate := by
  intro rD rA s
  refine ⟨encodedXo_of_xoForm rD rA 0 104 rfl rfl rfl rfl, ?_⟩
  have hneg : sum32 (~~~s.readGpr rA) 0#32 true = BitVec.ofInt 32 (-(s.readGpr rA).toInt) := by
    rw [sum32_not_true, BitVec.toInt_zero, Int.zero_sub]
  have h := completesOeRc_of_sumInto false rD (~~~s.readGpr rA) 0#32 true (plain := .neg rD rA)
    (record := .negRc rD rA) (overflow := .nego rD rA) (overflowRecord := .negoRc rD rA) rfl rfl rfl rfl hneg
  rwa [sumOverflows_neg] at h

end Sys2Proof.Machine
end

section
/-! PROOFS. Two instructions in a row, the second of which takes in the CA of the first: sums of two words, and the division
by a power of two. -/

namespace Sys2Proof.Machine

/-! ## What the second instruction reads -/

/-- A register after a sum. -/
theorem sumInto_readGpr (s : State) (setsCa oe rc : Bool) (d : Reg) (x y : Word) (c : Bool) (g : Reg) :
    (s.sumInto setsCa oe rc d x y c).readGpr g = if g = d then sum32 x y c else s.readGpr g :=
  finish_readGpr s d _ _ _ _ g

/-- CA after a sum that writes it. -/
theorem sumInto_ca (s : State) (oe rc : Bool) (d : Reg) (x y : Word) (c : Bool) :
    (s.sumInto true oe rc d x y c).ca = carryOut x y c := by
  obtain ⟨-, hxer, -⟩ := sumInto_holds s true oe rc d x y c
  exact hxer 2 (by omega)

/-- The target of an algebraic right shift. -/
theorem algebraicInto_readGpr_target (s : State) (rc : Bool) (d : Reg) (v : Word) (n : Nat) :
    (s.algebraicInto rc d v n).readGpr d = shiftRightAlgebraic v n :=
  (finish_readGpr s d _ _ _ _ d).trans (if_pos rfl)

/-- CA after an algebraic right shift. -/
theorem algebraicInto_ca (s : State) (rc : Bool) (d : Reg) (v : Word) (n : Nat) :
    (s.algebraicInto rc d v n).ca = algebraicCarry v n := by
  obtain ⟨-, hxer, -⟩ := algebraicInto_holds s rc d v n
  exact hxer 2 (by omega)

/-! ## Two-word sums (R78, R80) -/

/-- Settles O34: each of the two sums is exact with its carry (`carryOut_add_sum32`), and the second takes in the carry of
the first. -/
theorem extendedAddition : Obligations.ExtendedAddition := by
  intro rL rA rB rH rX rY s hX hY hH
  refine ⟨_, _, rfl, rfl, ?_⟩
  have hlow := carryOut_add_sum32 (s.readGpr rA) (s.readGpr rB) false
  have hhigh := carryOut_add_sum32 (s.readGpr rX) (s.readGpr rY) (carryOut (s.readGpr rA) (s.readGpr rB) false)
  rw [← State.ca, sumInto_ca]
  simp only [sumInto_readGpr, sumInto_ca, if_true, if_neg hX.symm, if_neg hY.symm, if_neg hH]
  rw [Bool.toNat_false] at hlow
  linarith

/-! ## Division by a power of two (R84, R163, R164) -/

/-- The count of `sraw` is (rB) modulo 64. -/
theorem shiftCount_eq (b : Word) : shiftCount b = b.toNat % 64 := BitVec.extractLsb'_toNat ..

/-- A word is negative exactly where its first bit is set. -/
theorem msb_iff_toInt_neg (v : Word) : v.msb = true ↔ v.toInt < 0 := by rw [BitVec.msb_eq_toInt, decide_eq_true_iff]

/-- The algebraic shift rounds down, at every count. -/
theorem shiftRightAlgebraic_toInt (v : Word) (n : Nat) : (shiftRightAlgebraic v n).toInt = v.toInt / 2 ^ n := by
  rw [shiftRightAlgebraic]
  split
  · rw [BitVec.toInt_sshiftRight, Int.shiftRight_eq_div_pow]
    rfl
  · next hn =>
    have hpow : (2 : Int) ^ 32 ≤ 2 ^ n := pow_le_pow_right₀ (by omega) (by omega)
    have hlow := v.le_toInt
    have hhigh := v.toInt_lt
    by_cases hv : v.toInt < 0
    · rw [if_pos ((msb_iff_toInt_neg v).2 hv), Int.ediv_eq_neg_one_of_neg_of_le hv (by omega)]
      rfl
    · rw [if_neg (mt (msb_iff_toInt_neg v).1 hv), Int.ediv_eq_zero_of_lt (by omega) (by omega)]
      rfl

/-- The unsigned and the signed value of a negative word are multiples of the same powers of two: they differ by 2^32, and
neither is a multiple of a higher power. -/
theorem two_pow_dvd_toNat_iff (v : Word) (n : Nat) (hv : v.toInt < 0) :
    2 ^ n ∣ v.toNat ↔ (2 : Int) ^ n ∣ v.toInt := by
  have hlow := v.le_toInt
  have hdiff : v.toInt = v.toNat - 2 ^ 32 := by
    rw [BitVec.toInt_eq_msb_cond, if_pos ((msb_iff_toInt_neg v).2 hv)]
    rfl
  by_cases hn : n ≤ 32
  · rw [hdiff, dvd_sub_left (pow_dvd_pow 2 hn)]
    exact_mod_cast Iff.rfl
  · have hpow : (2 : Int) ^ 32 ≤ 2 ^ n := pow_le_pow_right₀ (by omega) (by omega)
    refine iff_of_false (fun h => ?_) (fun h => ?_)
    · have hle := Nat.le_of_dvd (by omega) h
      have hle : (2 : Int) ^ n ≤ v.toNat := by exact_mod_cast hle
      omega
    · have hle := Int.le_of_dvd (by omega) (dvd_neg.2 h)
      omega

/-- CA of the algebraic shift: the source is negative and no multiple of 2^n. -/
theorem algebraicCarry_iff (v : Word) (n : Nat) :
    algebraicCarry v n = true ↔ v.toInt < 0 ∧ ¬ (2 : Int) ^ n ∣ v.toInt := by
  rw [algebraicCarry, Bool.and_eq_true, msb_iff_toInt_neg, decide_eq_true_iff]
  refine and_congr_right fun hv => not_congr ?_
  rw [← two_pow_dvd_toNat_iff v n hv, Nat.dvd_iff_mod_eq_zero]

/-- The shift and its CA together are the quotient rounded toward zero. -/
theorem shiftRightAlgebraic_add_carry (v : Word) (n : Nat) :
    (shiftRightAlgebraic v n).toInt + (algebraicCarry v n).toNat = v.toInt.tdiv (2 ^ n) := by
  rw [shiftRightAlgebraic_toInt, Int.tdiv_eq_ediv]
  cases h : algebraicCarry v n with
  | true =>
    obtain ⟨hv, hdvd⟩ := (algebraicCarry_iff v n).1 h
    rw [if_neg (not_or.2 ⟨not_le.2 hv, hdvd⟩), Int.sign_eq_one_of_pos (by positivity)]
    rfl
  | false =>
    rw [← Bool.not_eq_true, algebraicCarry_iff, not_and_or, not_lt, not_not] at h
    rw [if_pos h]
    rfl

/-- A shift and an `addze` of its result: the quotient is in range, since only a negative one is raised by the carry. -/
theorem sum32_shiftRightAlgebraic_toInt (v : Word) (n : Nat) :
    (sum32 (shiftRightAlgebraic v n) 0#32 (algebraicCarry v n)).toInt = v.toInt.tdiv (2 ^ n) := by
  have hlow := (shiftRightAlgebraic v n).le_toInt
  have hhigh := (shiftRightAlgebraic v n).toInt_lt
  have hraise : algebraicCarry v n = true → (shiftRightAlgebraic v n).toInt < 0 := fun h => by
    obtain ⟨hv, -⟩ := (algebraicCarry_iff v n).1 h
    rw [shiftRightAlgebraic_toInt]
    exact Int.ediv_neg_of_neg_of_pos hv (by positivity)
  rw [sum32_zero, ← shiftRightAlgebraic_add_carry]
  refine BitVec.toInt_ofInt_eq_self (by omega) (by omega) ?_
  cases h : algebraicCarry v n with
  | true =>
    have hneg := hraise h
    rw [Bool.toNat_true]
    omega
  | false =>
    rw [Bool.toNat_false]
    omega

/-- The target of an `addze` after an algebraic shift of `v` by `n` into its operand. -/
theorem addze_of_algebraicInto (rD rA : Reg) (s : State) (v : Word) (n : Nat) :
    ∃ u, exec (.addze rD rA) (s.algebraicInto false rA v n) = .next u ∧
      (u.readGpr rD).toInt = v.toInt.tdiv (2 ^ n) := by
  refine ⟨_, rfl, ?_⟩
  rw [sumInto_readGpr, if_pos rfl, algebraicInto_readGpr_target, algebraicInto_ca]
  exact sum32_shiftRightAlgebraic_toInt v n

/-- Settles O54: `srawi` and `sraw` are algebraic shifts of (rS) into rA, which `addze` then reads with CA. -/
theorem shiftDivideIdiom : Obligations.ShiftDivideIdiom := by
  intro rD rA rS rB sh s
  obtain ⟨u, hu, hq⟩ := addze_of_algebraicInto rD rA s (s.readGpr rS) sh.val
  obtain ⟨u', hu', hq'⟩ := addze_of_algebraicInto rD rA s (s.readGpr rS) (shiftCount (s.readGpr rB))
  rw [shiftCount_eq] at hq'
  exact ⟨⟨_, u, rfl, hu, hq⟩, _, u', rfl, hu', hq'⟩

end Sys2Proof.Machine
end

section
/-! PROOFS. Multiplication and division: what each shared operation of the family does in exact arithmetic, the instructions
of spec/41_integer_multiply_divide.md, the full product and the remainder, and the draws of an undefined divide. -/

namespace Sys2Proof.Machine

/-! ## Products in exact arithmetic (R101 to R103) -/

/-- The low word of a product does not depend on how the operands are read. -/
theorem ofInt_signedProduct (a b : Word) : BitVec.ofInt 32 (a.toInt * b.toInt) = a * b := by
  rw [BitVec.ofInt_mul, BitVec.ofInt_toInt, BitVec.ofInt_toInt]

/-- The signed and the unsigned product agree modulo 2^32. -/
theorem ofInt_signedProduct_eq_ofNat (a b : Word) :
    BitVec.ofInt 32 (a.toInt * b.toInt) = BitVec.ofNat 32 (a.toNat * b.toNat) := by
  rw [ofInt_signedProduct, ← BitVec.toNat_inj, BitVec.toNat_mul, BitVec.toNat_ofNat]

/-- The high word of a natural number. -/
theorem ofInt_highWord (n : Nat) : BitVec.ofInt 32 ((n : Int) / 2 ^ 32) = BitVec.ofNat 32 (n / 2 ^ 32) := by
  exact_mod_cast BitVec.ofInt_natCast 32 (n / 2 ^ 32)

/-- A signed 64-bit number from its two words, the high one read as signed. -/
theorem signedHighWord_add_lowWord (p : Int) (hlow : -2 ^ 63 ≤ p) (hhigh : p < 2 ^ 63) :
    (BitVec.ofInt 32 (p / 2 ^ 32)).toInt * 2 ^ 32 + (BitVec.ofInt 32 p).toNat = p := by
  rw [BitVec.toInt_ofInt_eq_self (by omega) (by omega) (by omega), BitVec.toNat_ofInt]
  omega

/-- An unsigned 64-bit number from its two words. -/
theorem highWord_add_lowWord (n : Nat) (h : n < 2 ^ 64) :
    (BitVec.ofNat 32 (n / 2 ^ 32)).toNat * 2 ^ 32 + (BitVec.ofNat 32 n).toNat = n := by
  rw [BitVec.toNat_ofNat, BitVec.toNat_ofNat]
  omega

/-! ## What the shared operations do (R15, R16, R106) -/

/-- What an instruction does that is a low product, of value `r`. -/
theorem completes_of_productLowInto {i : Instr} {s : State} (oe rc : Bool) (d : Reg) (a b : Word) {r : Word}
    (hi : exec i s = .next (s.productLowInto oe rc d a b)) (hr : BitVec.ofInt 32 (a.toInt * b.toInt) = r) :
    Completes i s
      { target := some (d, r), ov := whenEnabled oe (unrepresentable (a.toInt * b.toInt)),
        cr := whenEnabled rc (0, signOrder r) } := by
  rw [← outsideInt32_eq, ← hr]
  exact ⟨_, hi, productLowInto_holds s oe rc d a b⟩

/-- The two variants by Rc of one high product. -/
theorem completesRc_of_productHighInto {plain record : Instr} {s : State} (d : Reg) (p : Int) {r : Word}
    (hplain : exec plain s = .next (s.productHighInto false d p))
    (hrecord : exec record s = .next (s.productHighInto true d p)) (hr : BitVec.ofInt 32 (p / 2 ^ 32) = r) :
    CompletesRc plain record s { target := some (d, r) } r := by
  rw [← hr]
  exact ⟨⟨_, hplain, productHighInto_holds s false d p⟩, _, hrecord, productHighInto_holds s true d p⟩

/-- What a divide does that has a defined quotient. -/
theorem completes_of_quotientInto {i : Instr} {s : State} (oe rc : Bool) (d : Reg) (u : Bool) (q : Word)
    (hi : exec i s = .next (s.quotientInto oe rc d u q)) (hu : u = false) :
    Completes i s { target := some (d, q), ov := whenEnabled oe false, cr := whenEnabled rc (0, signOrder q) } := by
  subst hu
  exact ⟨_, hi, quotientInto_defined s oe rc d q⟩

/-- What a divide does that has no defined quotient. -/
theorem completesWithSome_of_quotientInto {i : Instr} {s : State} (oe rc : Bool) (d : Reg) (u : Bool) (q : Word)
    (hi : exec i s = .next (s.quotientInto oe rc d u q)) (hu : u = true) :
    CompletesWithSome i s d rc (whenEnabled oe true) := by
  subst hu
  exact ⟨_, _, _, _, hi, quotientInto_undefined s oe rc d q⟩

/-- The four variants by OE and Rc of one divide, whose quotient is undefined where `P` holds. -/
theorem quotientInto_variants {plain record overflow overflowRecord : Instr} {s : State} {P : Prop} (d : Reg) (u : Bool)
    (q : Word) (hplain : exec plain s = .next (s.quotientInto false false d u q))
    (hrecord : exec record s = .next (s.quotientInto false true d u q))
    (hoverflow : exec overflow s = .next (s.quotientInto true false d u q))
    (hboth : exec overflowRecord s = .next (s.quotientInto true true d u q)) (hu : u = true ↔ P) :
    (P → CompletesUndefined plain record overflow overflowRecord s d) ∧
    (¬ P → CompletesOeRc plain record overflow overflowRecord s { target := some (d, q) } q false) := by
  refine ⟨fun hP => ?_, fun hP => ?_⟩
  · have h := hu.2 hP
    exact ⟨completesWithSome_of_quotientInto _ _ _ _ _ hplain h, completesWithSome_of_quotientInto _ _ _ _ _ hrecord h,
      completesWithSome_of_quotientInto _ _ _ _ _ hoverflow h, completesWithSome_of_quotientInto _ _ _ _ _ hboth h⟩
  · have h : u = false := Bool.eq_false_iff.2 (mt hu.1 hP)
    exact ⟨⟨completes_of_quotientInto _ _ _ _ _ hplain h, completes_of_quotientInto _ _ _ _ _ hrecord h⟩,
      completes_of_quotientInto _ _ _ _ _ hoverflow h, completes_of_quotientInto _ _ _ _ _ hboth h⟩

/-! ## The instructions (R100 to R105) -/

/-- Settles O35: the low product of (rA) and the sign-extended SIMM. -/
theorem multiplyLowImmediate : Obligations.MultiplyLowImmediate := by
  intro rD rA simm s
  refine ⟨dForm_toNat ..,
    completes_of_productLowInto false false rD (s.readGpr rA) (signExtended simm) rfl ?_⟩
  rw [signExtended_toInt]

/-- Settles O36: the low word of the signed product is that of the unsigned one. -/
theorem multiplyLow : Obligations.MultiplyLow := by
  intro rD rA rB s
  have hr := ofInt_signedProduct_eq_ofNat (s.readGpr rA) (s.readGpr rB)
  exact ⟨encodedXo_of_xoForm rD rA rB 235 rfl rfl rfl rfl,
    ⟨completes_of_productLowInto false false rD _ _ rfl hr, completes_of_productLowInto false true rD _ _ rfl hr⟩,
    completes_of_productLowInto true false rD _ _ rfl hr, completes_of_productLowInto true true rD _ _ rfl hr⟩

/-- Settles O37: the high product of the operands read as signed and as unsigned. -/
theorem multiplyHigh : Obligations.MultiplyHigh := fun rD rA rB s =>
  ⟨xoForm_toNat rD rA rB false 75 false, xoForm_toNat rD rA rB false 75 true, xoForm_toNat rD rA rB false 11 false,
    xoForm_toNat rD rA rB false 11 true,
    completesRc_of_productHighInto rD ((s.readGpr rA).toInt * (s.readGpr rB).toInt) rfl rfl rfl,
    completesRc_of_productHighInto rD ((s.readGpr rA).toNat * (s.readGpr rB).toNat : Nat) rfl rfl (ofInt_highWord _)⟩

/-- Settles O39: the undefined cases are those of `signedUndefined_iff`. -/
theorem divideSigned : Obligations.DivideSigned := fun rD rA rB s =>
  ⟨encodedXo_of_xoForm rD rA rB 491 rfl rfl rfl rfl,
    quotientInto_variants rD _ (signedQuotient (s.readGpr rA) (s.readGpr rB)) rfl rfl rfl rfl (signedUndefined_iff _ _)⟩

/-- Settles O40: the undefined case is that of `unsignedUndefined_iff`. -/
theorem divideUnsigned : Obligations.DivideUnsigned := fun rD rA rB s =>
  ⟨encodedXo_of_xoForm rD rA rB 459 rfl rfl rfl rfl,
    quotientInto_variants rD _ (unsignedQuotient (s.readGpr rA) (s.readGpr rB)) rfl rfl rfl rfl
      (unsignedUndefined_iff _ _)⟩

/-! ## The registers after a product or a quotient -/

/-- A register after a low product. -/
theorem productLowInto_readGpr (s : State) (oe rc : Bool) (d : Reg) (a b : Word) (g : Reg) :
    (s.productLowInto oe rc d a b).readGpr g = if g = d then BitVec.ofInt 32 (a.toInt * b.toInt) else s.readGpr g :=
  finish_readGpr s d _ _ _ _ g

/-- The target of a high product. -/
theorem productHighInto_readGpr_target (s : State) (rc : Bool) (d : Reg) (p : Int) :
    (s.productHighInto rc d p).readGpr d = BitVec.ofInt 32 (p / 2 ^ 32) :=
  (finish_readGpr s d _ _ _ _ d).trans (if_pos rfl)

/-- A register after a divide with a defined quotient. -/
theorem quotientInto_readGpr (s : State) (oe rc : Bool) (d : Reg) (u : Bool) (q : Word) (g : Reg) (hu : u = false) :
    (s.quotientInto oe rc d u q).readGpr g = if g = d then q else s.readGpr g := by
  subst hu
  exact finish_readGpr s d _ _ _ _ g

/-! ## The full product (R101 to R103) -/

/-- Settles O38: each product is put together from its two words, the low one common to both. -/
theorem fullProduct : Obligations.FullProduct := by
  intro rL rH rA rB s
  refine ⟨_, _, _, rfl, rfl, rfl, ?_, ?_⟩
  · have hlow := @BitVec.le_toInt_mul_toInt 32 (s.readGpr rA) (s.readGpr rB)
    have hhigh := @BitVec.toInt_mul_toInt_le 32 (s.readGpr rA) (s.readGpr rB)
    rw [productHighInto_readGpr_target, productLowInto_readGpr, if_pos rfl]
    exact signedHighWord_add_lowWord _ (by omega) (by omega)
  · have hlt : (s.readGpr rA).toNat * (s.readGpr rB).toNat < 2 ^ 32 * 2 ^ 32 :=
      Nat.mul_lt_mul'' (s.readGpr rA).isLt (s.readGpr rB).isLt
    rw [productHighInto_readGpr_target, productLowInto_readGpr, if_pos rfl, ofInt_signedProduct_eq_ofNat, ofInt_highWord]
    exact highWord_add_lowWord _ hlt

/-! ## The remainder (R74, R101, R104) -/

/-- The dividend less the product of quotient and divisor is the remainder of the truncated division. -/
theorem sub_signedQuotient_mul (a b : Word) : a - signedQuotient a b * b = a.srem b := by
  have h := congrArg (BitVec.ofInt 32) (Int.mul_tdiv_add_tmod a.toInt b.toInt)
  rw [BitVec.ofInt_add, BitVec.ofInt_mul, BitVec.ofInt_toInt, BitVec.ofInt_toInt, ← BitVec.toInt_srem,
    BitVec.ofInt_toInt] at h
  rw [sub_eq_iff_eq_add', BitVec.mul_comm]
  exact h.symm

/-- Settles O41: the three results are the quotient, its product with the divisor, which `divw` left alone, and the
difference from the dividend, which both left alone. -/
theorem remainderIdiom : Obligations.RemainderIdiom := by
  intro rQ rP rR rA rB s hQA hQB hPA hdef
  refine ⟨_, _, _, rfl, rfl, rfl, ?_⟩
  have hu : signedUndefined (s.readGpr rA) (s.readGpr rB) = false :=
    Bool.eq_false_iff.2 (mt (signedUndefined_iff _ _).1 hdef)
  simp only [sumInto_readGpr, productLowInto_readGpr, quotientInto_readGpr _ _ _ _ _ _ _ hu, if_true, if_neg hQA.symm,
    if_neg hQB.symm, if_neg hPA.symm]
  rw [sum32_not_true_eq_sub, ofInt_signedProduct, sub_signedQuotient_mul, BitVec.toInt_srem]

/-! ## The draws (R106, D7) -/

/-- The register an effect writes. -/
theorem Effect.gprAfter_target (e : Effect) (s : State) (g : Reg) (v : Word) (h : e.target = some (g, v)) :
    e.gprAfter s g = v := by
  simp only [Effect.gprAfter, h, if_true]

/-- LT, GT and EQ of CR0 after an effect that records. -/
theorem Effect.crBit_cr0 (e : Effect) (s : State) (so : Bool) (o : BitVec 3) (n : Nat)
    (h : e.cr = some (0, orderTriple o)) (hn : n < 3) : e.crBit s so n = o.getMsbD n := by
  simp only [Effect.crBit, h, orderTriple]
  interval_cases n <;> rfl

/-- Settles O19: the effect of `exec_next` draws where the instruction is an undefined divide, and nowhere else; what it then
writes into its target and into CR0 are the draws at the counter. -/
theorem drawsAreFresh : Obligations.DrawsAreFresh := by
  intro i s t h
  obtain ⟨-, e, ⟨hgpr, -, hcr, -, -, -, -, hdraws⟩, ⟨ftarget, -, -, fcr, fundef, fdef⟩⟩ := exec_next i s t h
  refine ⟨fun hu => ?_, fun hu => by rw [hdraws, fdef hu, Nat.add_zero]⟩
  obtain ⟨hdrawn, hresult, horder⟩ := fundef hu
  refine ⟨by rw [hdraws, hdrawn], fun g hg => ?_, fun h0 n hn => ?_⟩
  · obtain ⟨⟨d, v⟩, he, rfl⟩ := Option.map_eq_some_iff.1 (ftarget.trans hg)
    rw [he] at hresult
    rw [hgpr, e.gprAfter_target s d v he]
    exact Option.some.inj hresult
  · obtain ⟨⟨k, o⟩, he, rfl⟩ := Option.map_eq_some_iff.1 (fcr.trans h0)
    have ho : o = orderTriple (Config.divUndefOrder s.draws) := horder o (by rw [he]; rfl)
    rw [hcr n (by omega), e.crBit_cr0 s _ _ n (by rw [he, ho]) hn]

end Sys2Proof.Machine
end

section
/-! PROOFS. The compares of spec/42_integer_compare.md, with the three order bits in exact arithmetic. -/

namespace Sys2Proof.Machine

/-! ## The encodings with L = 0 (R48, R50) -/

/-- The first five-bit field of a D-form compare holds crfD, the reserved bit 9 and L. -/
theorem dCompareForm_toNat_eq_dValue (op : BitVec 6) (k : CrIndex) (a : Reg) (imm : BitVec 16) :
    (dCompareForm op k false a imm).toNat = dValue op.toNat (4 * k.val) a.val imm.toNat := by
  rw [dCompareForm_toNat, dValue, Bool.toNat_false]
  omega

/-- The first five-bit field of an X-form compare holds crfD, the reserved bit 9 and L. -/
theorem xCompareForm_toNat_eq_xValue (k : CrIndex) (a b : Reg) (xo : BitVec 10) :
    (xCompareForm k false a b xo).toNat = xValue (4 * k.val) a.val b.val xo.toNat 0 := by
  rw [xCompareForm_toNat, xValue, Bool.toNat_false]
  omega

/-! ## The order bits in exact arithmetic (R115) -/

/-- `signedOrder` is the comparison of the signed numbers. -/
theorem orderTriple_signedOrder (a b : Word) : orderTriple (signedOrder a b) = orderOf a.toInt b.toInt :=
  orderTriple_orderBits _ _ _ _ BitVec.slt_eq_decide BitVec.slt_eq_decide

/-- `unsignedOrder` is the comparison of the unsigned numbers. -/
theorem orderTriple_unsignedOrder (a b : Word) : orderTriple (unsignedOrder a b) = orderOf a.toNat b.toNat :=
  orderTriple_orderBits _ _ _ _ (by simp only [BitVec.ult, Int.ofNat_lt]) (by simp only [BitVec.ult, Int.ofNat_lt])

/-- Zero extension keeps the unsigned number. -/
theorem zeroExtended_toNat (imm : BitVec 16) : (zeroExtended imm).toNat = imm.toNat := by
  rw [zeroExtended, toNat_append_add, BitVec.toNat_zero, Nat.zero_mul, Nat.zero_add]

/-! ## The instructions (R116 to R119) -/

/-- With L = 0 a compare writes into its CR field the order of the two integers that its order bits tell of. -/
theorem completes_of_compareInto {i : Instr} {s : State} (k : CrIndex) (w : Word) {o : BitVec 3} {a b : Int}
    (hi : exec i s = compareInto k false w o s) (ho : orderTriple o = orderOf a b) :
    Completes i s { cr := some (k, orderOf a b) } := by
  obtain ⟨t, ht, heffect⟩ := compareInto_holds k w o s
  rw [ho] at heffect
  exact ⟨t, hi.trans ht, heffect⟩

/-- Settles O42: the order of the signed numbers, which sign extension keeps; with L = 1 `compareInto` is
the fault by definition. -/
theorem compareSigned : Obligations.CompareSigned := by
  intro crfD rA rB simm s
  have himm := orderTriple_signedOrder (s.readGpr rA) (signExtended simm)
  rw [signExtended_toInt] at himm
  exact ⟨dCompareForm_toNat_eq_dValue 11 .., xCompareForm_toNat_eq_xValue crfD rA rB 0,
    completes_of_compareInto crfD (encode (.cmpi crfD false rA simm)) rfl himm,
    completes_of_compareInto crfD (encode (.cmp crfD false rA rB)) rfl (orderTriple_signedOrder _ _), rfl, rfl⟩

/-- Settles O43: the order of the unsigned numbers, which zero extension keeps; with L = 1 `compareInto` is
the fault by definition. -/
theorem compareUnsigned : Obligations.CompareUnsigned := by
  intro crfD rA rB uimm s
  have himm := orderTriple_unsignedOrder (s.readGpr rA) (zeroExtended uimm)
  rw [zeroExtended_toNat] at himm
  exact ⟨dCompareForm_toNat_eq_dValue 10 .., xCompareForm_toNat_eq_xValue crfD rA rB 32,
    completes_of_compareInto crfD (encode (.cmpli crfD false rA uimm)) rfl himm,
    completes_of_compareInto crfD (encode (.cmpl crfD false rA rB)) rfl (orderTriple_unsignedOrder _ _), rfl, rfl⟩

end Sys2Proof.Machine
end

section
/-! PROOFS. The bits of a result, what an instruction does that is one result, and the logical instructions of
spec/43_integer_logical.md. -/

namespace Sys2Proof.Machine

/-! ## The bits of a word (R2) -/

/-- A word has its own bits. -/
theorem hasBits_self (v : Word) : HasBits v (fun i => v.getMsbD i) := fun _ _ => rfl

/-- AND acts on each bit. -/
theorem hasBits_and {x y : Word} {f g : Nat → Bool} (hx : HasBits x f) (hy : HasBits y g) :
    HasBits (x &&& y) (fun i => f i && g i) := fun i hi => by rw [BitVec.getMsbD_and, hx i hi, hy i hi]

/-- OR acts on each bit. -/
theorem hasBits_or {x y : Word} {f g : Nat → Bool} (hx : HasBits x f) (hy : HasBits y g) :
    HasBits (x ||| y) (fun i => f i || g i) := fun i hi => by rw [BitVec.getMsbD_or, hx i hi, hy i hi]

/-- XOR acts on each bit. -/
theorem hasBits_xor {x y : Word} {f g : Nat → Bool} (hx : HasBits x f) (hy : HasBits y g) :
    HasBits (x ^^^ y) (fun i => f i ^^ g i) := fun i hi => by rw [BitVec.getMsbD_xor, hx i hi, hy i hi]

/-- The one's complement acts on each bit. -/
theorem hasBits_not {x : Word} {f : Nat → Bool} (hx : HasBits x f) : HasBits (~~~x) (fun i => !f i) := fun i hi => by
  rw [BitVec.getMsbD_not, hx i hi, decide_eq_true hi, Bool.true_and]

/-- `0x0000 || UIMM`: the immediate is the low half word. -/
theorem hasBits_zeroExtended (imm : BitVec 16) :
    HasBits (zeroExtended imm) (fun i => decide (16 ≤ i) && imm.getMsbD (i - 16)) := fun i _ => by
  rw [zeroExtended, BitVec.getMsbD_append, BitVec.getMsbD_zero]
  by_cases h : 16 ≤ i <;> simp [h]

/-- `UIMM || 0x0000`: the immediate is the high half word. -/
theorem hasBits_shiftedImmediate (imm : BitVec 16) :
    HasBits (shiftedImmediate imm) (fun i => decide (i < 16) && imm.getMsbD i) := fun i _ => by
  rw [shiftedImmediate, BitVec.getMsbD_append, BitVec.getMsbD_zero]
  by_cases h : i < 16
  · simp [h, Nat.not_le.2 h]
  · simp [h, Nat.not_lt.1 h]

/-- The low-order `n` bits sign-extended: bit `32 - n` stands in every bit to its left. -/
theorem hasBits_signExtend_low (v : Word) (n : Nat) (hpos : 0 < n) (hn : n ≤ 32) :
    HasBits ((v.extractLsb' 0 n).signExtend 32) (fun i => v.getMsbD (if i < 32 - n then 32 - n else i)) := fun i hi => by
  rw [BitVec.getMsbD_signExtend, decide_eq_true hi, Bool.true_and]
  beta_reduce
  by_cases h : i < 32 - n
  · rw [if_neg (by omega), if_pos h, BitVec.msb_extractLsb', Nat.zero_add, decide_eq_true hpos, decide_eq_true hn]
    rfl
  · have hlast : 32 - (0 + n - (i + n - 32)) = i := by omega
    rw [if_pos (by omega), if_neg h, BitVec.getMsbD_extractLsb', decide_eq_true (by omega), decide_eq_true (by omega),
      hlast]
    rfl

/-! ## The variants of one result (R5, R15, R48, R125) -/

/-- Two words of the X-form that differ in Rc alone. -/
theorem encodedX_of_xForm {plain record : Instr} (s a b : Reg) (xo : BitVec 10)
    (hp : encode plain = xForm s a b xo false) (hr : encode record = xForm s a b xo true) :
    EncodedX plain record s.val a.val b.val xo.toNat := by
  rw [EncodedX, hp, hr]
  exact ⟨xForm_toNat .., xForm_toNat ..⟩

/-- What an instruction does that is one result of bits `f`, without the record. -/
theorem completesBits_of_resultInto {i : Instr} {s : State} {d : Reg} {r : Word} {f : Nat → Bool}
    (hi : exec i s = .next (s.resultInto false d r)) (hr : HasBits r f) : CompletesBits i s d f :=
  ⟨r, hr, _, hi, resultInto_holds s false d r⟩

/-- What an instruction does that is one result of bits `f`, with the record. -/
theorem completesBitsRecording_of_resultInto {i : Instr} {s : State} {d : Reg} {r : Word} {f : Nat → Bool}
    (hi : exec i s = .next (s.resultInto true d r)) (hr : HasBits r f) : CompletesBitsRecording i s d f :=
  ⟨r, hr, _, hi, resultInto_holds s true d r⟩

/-- The two variants by Rc of one result. -/
theorem completesRc_of_resultInto {plain record : Instr} {s : State} {d : Reg} {r : Word}
    (hplain : exec plain s = .next (s.resultInto false d r))
    (hrecord : exec record s = .next (s.resultInto true d r)) :
    CompletesRc plain record s { target := some (d, r) } r :=
  ⟨⟨_, hplain, resultInto_holds s false d r⟩, _, hrecord, resultInto_holds s true d r⟩

/-- The two variants by Rc of one result of bits `f`. -/
theorem completesBitsRc_of_resultInto {plain record : Instr} {s : State} {d : Reg} {r : Word} {f : Nat → Bool}
    (hplain : exec plain s = .next (s.resultInto false d r))
    (hrecord : exec record s = .next (s.resultInto true d r)) (hr : HasBits r f) : CompletesBitsRc plain record s d f :=
  ⟨r, hr, completesRc_of_resultInto hplain hrecord⟩

/-! ## AND, OR, XOR and their complements (R126 to R139) -/

/-- Settles O44: each acts bit by bit on (rS) and the half word of the immediate. -/
theorem logicalImmediates : Obligations.LogicalImmediates := by
  intro rA rS uimm s
  have hv := hasBits_self (s.readGpr rS)
  have hlow := hasBits_zeroExtended uimm
  have hhigh := hasBits_shiftedImmediate uimm
  exact ⟨dForm_toNat .., dForm_toNat .., dForm_toNat .., dForm_toNat .., dForm_toNat .., dForm_toNat ..,
    completesBitsRecording_of_resultInto rfl (hasBits_and hv hlow),
    completesBitsRecording_of_resultInto rfl (hasBits_and hv hhigh),
    completesBits_of_resultInto rfl (hasBits_or hv hlow), completesBits_of_resultInto rfl (hasBits_or hv hhigh),
    completesBits_of_resultInto rfl (hasBits_xor hv hlow), completesBits_of_resultInto rfl (hasBits_xor hv hhigh)⟩

/-- Settles O45: each acts bit by bit on (rS) and (rB), as its operation is put together from AND, OR, XOR and the
complement. -/
theorem logicalRegisters : Obligations.LogicalRegisters := by
  intro rA rS rB s
  have hv := hasBits_self (s.readGpr rS)
  have hw := hasBits_self (s.readGpr rB)
  exact ⟨encodedX_of_xForm rS rA rB 28 rfl rfl, encodedX_of_xForm rS rA rB 444 rfl rfl,
    encodedX_of_xForm rS rA rB 316 rfl rfl, encodedX_of_xForm rS rA rB 476 rfl rfl,
    encodedX_of_xForm rS rA rB 124 rfl rfl, encodedX_of_xForm rS rA rB 284 rfl rfl,
    encodedX_of_xForm rS rA rB 60 rfl rfl, encodedX_of_xForm rS rA rB 412 rfl rfl,
    completesBitsRc_of_resultInto rfl rfl (hasBits_and hv hw),
    completesBitsRc_of_resultInto rfl rfl (hasBits_or hv hw),
    completesBitsRc_of_resultInto rfl rfl (hasBits_xor hv hw),
    completesBitsRc_of_resultInto rfl rfl (hasBits_not (hasBits_and hv hw)),
    completesBitsRc_of_resultInto rfl rfl (hasBits_not (hasBits_or hv hw)),
    completesBitsRc_of_resultInto rfl rfl (hasBits_not (hasBits_xor hv hw)),
    completesBitsRc_of_resultInto rfl rfl (hasBits_and hv (hasBits_not hw)),
    completesBitsRc_of_resultInto rfl rfl (hasBits_or hv (hasBits_not hw))⟩

/-! ## Sign extension (R140, R141) -/

/-- Settles O46: the result is the low byte or half word, sign-extended. -/
theorem extendSign : Obligations.ExtendSign := fun rA rS s =>
  ⟨encodedX_of_xForm rS rA 0 954 rfl rfl, encodedX_of_xForm rS rA 0 922 rfl rfl,
    completesBitsRc_of_resultInto rfl rfl (hasBits_signExtend_low (s.readGpr rS) 8 (by omega) (by omega)),
    completesBitsRc_of_resultInto rfl rfl (hasBits_signExtend_low (s.readGpr rS) 16 (by omega) (by omega))⟩

/-! ## Leading zeros (R142) -/

/-- At a 1 bit the count ends. -/
theorem countZerosFrom_of_one (v : Word) (fuel n : Nat) (h : v.getMsbD n = true) :
    countZerosFrom v (fuel + 1) n = n := if_pos h

/-- At a 0 bit the count goes on with the next bit. -/
theorem countZerosFrom_of_zero (v : Word) (fuel n : Nat) (h : v.getMsbD n = false) :
    countZerosFrom v (fuel + 1) n = countZerosFrom v fuel (n + 1) := if_neg (Bool.eq_false_iff.1 h)

/-- The count sees no more than `fuel` bits. -/
theorem countZerosFrom_le (v : Word) (fuel n : Nat) : countZerosFrom v fuel n ≤ n + fuel := by
  induction fuel generalizing n with
  | zero => exact Nat.le_refl n
  | succ fuel ih =>
    cases h : v.getMsbD n with
    | true => rw [countZerosFrom_of_one v fuel n h]; omega
    | false => have := ih (n + 1); rw [countZerosFrom_of_zero v fuel n h]; omega

/-- Every bit passed over is 0. -/
theorem getMsbD_of_lt_countZerosFrom (v : Word) (fuel n i : Nat) (hni : n ≤ i) (hi : i < countZerosFrom v fuel n) :
    v.getMsbD i = false := by
  induction fuel generalizing n with
  | zero => exact absurd hi (Nat.not_lt.2 hni)
  | succ fuel ih =>
    cases h : v.getMsbD n with
    | true =>
      rw [countZerosFrom_of_one v fuel n h] at hi
      omega
    | false =>
      rw [countZerosFrom_of_zero v fuel n h] at hi
      obtain rfl | hlt := Nat.eq_or_lt_of_le hni
      · exact h
      · exact ih (n + 1) hlt hi

/-- A count that ends early ends at a 1 bit. -/
theorem getMsbD_countZerosFrom (v : Word) (fuel n : Nat) (hlt : countZerosFrom v fuel n < n + fuel) :
    v.getMsbD (countZerosFrom v fuel n) = true := by
  induction fuel generalizing n with
  | zero => exact absurd hlt (Nat.lt_irrefl n)
  | succ fuel ih =>
    cases h : v.getMsbD n with
    | true => rwa [countZerosFrom_of_one v fuel n h]
    | false =>
      rw [countZerosFrom_of_zero v fuel n h] at hlt ⊢
      exact ih (n + 1) (by omega)

/-- A count of at most 32 is not negative as a word. -/
theorem signOrder_lt_of_count (n : Nat) (hn : n ≤ 32) : (signOrder (BitVec.ofNat 32 n)).1 = false := by
  have htoNat : (BitVec.ofNat 32 n).toNat = n := by rw [BitVec.toNat_ofNat]; omega
  have htoInt : (BitVec.ofNat 32 n).toInt = n := by
    rw [BitVec.toInt_eq_toNat_of_lt (by rw [htoNat]; omega), htoNat]
  have hnonneg : ¬ (n : Int) < 0 := by omega
  rw [signOrder, orderOf, htoInt]
  exact decide_eq_false hnonneg

/-- Settles O47: the number is `leadingZeros`, the count of all 32 bits from bit 0. -/
theorem countLeadingZeros : Obligations.CountLeadingZeros := by
  intro rA rS s
  have hle : leadingZeros (s.readGpr rS) ≤ 32 := countZerosFrom_le _ 32 0
  exact ⟨encodedX_of_xForm rS rA 0 26 rfl rfl, leadingZeros (s.readGpr rS), hle,
    fun i hi => getMsbD_of_lt_countZerosFrom _ 32 0 i (Nat.zero_le i) hi,
    fun hlt => getMsbD_countZerosFrom _ 32 0 hlt, signOrder_lt_of_count _ hle, completesRc_of_resultInto rfl rfl⟩

end Sys2Proof.Machine
end

section
/-! PROOFS. The mask generator, the rotation, and the rotate instructions of spec/44_integer_rotate.md. -/

namespace Sys2Proof.Machine

/-! ## The mask (R150) -/

/-- All ones shifted right by `n` are the ones from bit `n` on. -/
theorem hasBits_allOnes_ushiftRight (n : Nat) : HasBits (BitVec.allOnes 32 >>> n) (fun i => decide (n ≤ i)) :=
  fun i hi => by
    rw [BitVec.getMsbD_ushiftRight, BitVec.getMsbD_allOnes, decide_eq_true hi, decide_eq_true (by omega : i - n < 32),
      Bool.true_and, Bool.and_true, ← decide_not]
    exact decide_eq_decide.2 Nat.not_lt

/-- All ones shifted left by `31 - n` are the ones through bit `n`. -/
theorem hasBits_allOnes_shiftLeft (n : Nat) (hn : n < 32) :
    HasBits (BitVec.allOnes 32 <<< (31 - n)) (fun i => decide (i ≤ n)) := fun i _ => by
  rw [BitVec.getMsbD_shiftLeft, BitVec.getMsbD_allOnes]
  exact decide_eq_decide.2 (by omega)

/-- A mask that does not wrap. -/
theorem mask_of_le {mb me : BitPos} (h : mb ≤ me) :
    mask mb me = BitVec.allOnes 32 >>> mb.val &&& BitVec.allOnes 32 <<< (31 - me.val) := if_pos h

/-- A mask that wraps from 31 to 0. -/
theorem mask_of_not_le {mb me : BitPos} (h : ¬ mb ≤ me) :
    mask mb me = BitVec.allOnes 32 >>> mb.val ||| BitVec.allOnes 32 <<< (31 - me.val) := if_neg h

/-- The bits of a mask that does not wrap. -/
theorem inMask_of_le {mb me : BitPos} (h : mb ≤ me) (i : Nat) :
    inMask mb me i = (decide (mb.val ≤ i) && decide (i ≤ me.val)) := if_pos h

/-- The bits of a mask that wraps from 31 to 0. -/
theorem inMask_of_not_le {mb me : BitPos} (h : ¬ mb ≤ me) (i : Nat) :
    inMask mb me i = (decide (mb.val ≤ i) || decide (i ≤ me.val)) := if_neg h

/-- The mask has the bits `inMask`. -/
theorem hasBits_mask (mb me : BitPos) : HasBits (mask mb me) (fun i => inMask mb me i) := by
  have hstart := hasBits_allOnes_ushiftRight mb.val
  have hstop := hasBits_allOnes_shiftLeft me.val me.isLt
  intro i hi
  by_cases h : mb ≤ me
  · rw [mask_of_le h]
    exact (hasBits_and hstart hstop i hi).trans (inMask_of_le h i).symm
  · rw [mask_of_not_le h]
    exact (hasBits_or hstart hstop i hi).trans (inMask_of_not_le h i).symm

/-- The start bit is in the mask, wrapping or not. -/
theorem inMask_start (mb me : BitPos) : inMask mb me mb.val = true := by
  by_cases h : mb ≤ me
  · rw [inMask_of_le h, decide_eq_true (Nat.le_refl _), decide_eq_true (Fin.le_def.1 h), Bool.and_self]
  · rw [inMask_of_not_le h, decide_eq_true (Nat.le_refl _), Bool.true_or]

/-- The mask has its start bit, so it is not zero. -/
theorem mask_ne_zero (mb me : BitPos) : mask mb me ≠ 0 := by
  intro h
  have hstart := (hasBits_mask mb me mb.val mb.isLt).trans (inMask_start mb me)
  rw [h, BitVec.ofNat_eq_ofNat, BitVec.getMsbD_zero] at hstart
  exact Bool.false_ne_true hstart

/-- All ones shifted right, as a number. -/
theorem allOnes_ushiftRight_eq_ofNat (n : Nat) :
    BitVec.allOnes 32 >>> n = BitVec.ofNat 32 (0xFFFFFFFF / 2 ^ n) := by
  have hle : 0xFFFFFFFF / 2 ^ n ≤ 0xFFFFFFFF := Nat.div_le_self ..
  apply BitVec.eq_of_toNat_eq
  rw [BitVec.toNat_ushiftRight, BitVec.toNat_allOnes, Nat.shiftRight_eq_div_pow, BitVec.toNat_ofNat,
    Nat.mod_eq_of_lt (by omega)]

/-- All ones shifted left, as a number. -/
theorem allOnes_shiftLeft_eq_ofNat (n : Nat) : BitVec.allOnes 32 <<< n = BitVec.ofNat 32 (0xFFFFFFFF * 2 ^ n) := by
  apply BitVec.eq_of_toNat_eq
  rw [BitVec.toNat_shiftLeft, BitVec.toNat_allOnes, Nat.shiftLeft_eq, BitVec.toNat_ofNat]

/-- Settles O48: the mask joins the ones from its start bit on and the ones through its stop bit. -/
theorem maskBits : Obligations.MaskBits := by
  intro mb me
  refine ⟨hasBits_mask mb me, mask_ne_zero mb me, ?_⟩
  rw [← allOnes_ushiftRight_eq_ofNat, ← allOnes_shiftLeft_eq_ofNat]
  split
  case isTrue h => exact mask_of_le h
  case isFalse h => exact mask_of_not_le h

/-! ## The rotation (R151) -/

/-- Bits that exit from position 0 enter at position 31. -/
theorem hasBits_rotl32 (v : Word) (n : Nat) : HasBits (rotl32 v n) (fun i => v.getMsbD ((i + n) % 32)) :=
  fun i hi => by rw [rotl32, BitVec.getMsbD_rotateLeft, decide_eq_true hi, Bool.true_and, Nat.add_comm]

/-- The bits that exit stand below those that stay, so the rotated word is the sum of the two. -/
theorem rotl32_toNat (v : Word) (n : Nat) (hn : n < 32) :
    (rotl32 v n).toNat = (v.toNat * 2 ^ n + v.toNat / 2 ^ (32 - n)) % 2 ^ 32 := by
  have hpow : 2 ^ 32 = 2 ^ (32 - n) * 2 ^ n := by rw [← Nat.pow_add, Nat.sub_add_cancel (Nat.le_of_lt hn)]
  have hexit : v.toNat / 2 ^ (32 - n) < 2 ^ n := Nat.div_lt_of_lt_mul (hpow ▸ v.isLt)
  have hstay : v.toNat * 2 ^ n % 2 ^ 32 = v.toNat % 2 ^ (32 - n) * 2 ^ n := by rw [hpow, Nat.mul_mod_mul_right]
  have hsum : (rotl32 v n).toNat = v.toNat * 2 ^ n % 2 ^ 32 + v.toNat / 2 ^ (32 - n) := by
    rw [rotl32, BitVec.toNat_rotateLeft, Nat.mod_eq_of_lt hn, Nat.shiftRight_eq_div_pow, Nat.shiftLeft_eq, hstay,
      ← Nat.shiftLeft_eq, Nat.shiftLeft_add_eq_or_of_lt hexit]
  rw [← Nat.mod_add_mod, ← hsum, Nat.mod_eq_of_lt (rotl32 v n).isLt]

/-- Two rotations whose counts make up whole turns give the word back. -/
theorem rotl32_rotl32_cancel (v : Word) (m n : Nat) (h : (m + n) % 32 = 0) : rotl32 (rotl32 v m) n = v := by
  refine BitVec.eq_of_getMsbD_eq fun i hi => ?_
  have hindex : ((i + n) % 32 + m) % 32 = i := by omega
  calc
    (rotl32 (rotl32 v m) n).getMsbD i = (rotl32 v m).getMsbD ((i + n) % 32) := hasBits_rotl32 _ n i hi
    _ = v.getMsbD (((i + n) % 32 + m) % 32) := hasBits_rotl32 v m _ (Nat.mod_lt _ (by omega))
    _ = v.getMsbD i := by rw [hindex]

/-- Settles O49: the bits and the number of a rotation, and a rotation by the complement of its count. -/
theorem rotateLeft : Obligations.RotateLeft := fun v n =>
  ⟨hasBits_rotl32 v n.val, rotl32_toNat v n.val n.isLt, rotl32_rotl32_cancel v n.val _ (by omega)⟩

/-! ## The instructions (R51, R153 to R155) -/

/-- Two words of the M-form that differ in Rc alone. -/
theorem encodedM_of_mForm {plain record : Instr} (op : BitVec 6) (s a b mb me : Fin 32)
    (hp : encode plain = mForm op s a b mb me false) (hr : encode record = mForm op s a b mb me true) :
    EncodedM plain record op.toNat s.val a.val b.val mb.val me.val := by
  rw [EncodedM, hp, hr]
  exact ⟨mForm_toNat .., mForm_toNat ..⟩

/-- The count of `rlwnm` is the remainder of (rB) by 32. -/
theorem rotateCount_eq (b : Word) : rotateCount b = b.toNat % 32 := BitVec.extractLsb'_toNat ..

/-- The bits of `x` where the mask `m` has ones, and those of `y` elsewhere. -/
theorem hasBits_insert {x y m : Word} {f g p : Nat → Bool} (hx : HasBits x f) (hy : HasBits y g) (hm : HasBits m p) :
    HasBits ((x &&& m) ||| (y &&& ~~~m)) (fun i => if p i then f i else g i) := fun i hi => by
  rw [hasBits_or (hasBits_and hx hm) (hasBits_and hy (hasBits_not hm)) i hi]
  beta_reduce
  cases p i <;> simp

/-- Settles O50: the result is the rotated word ANDed with the mask, and the count of rlwnm is (rB) modulo 32. -/
theorem rotateAndMask : Obligations.RotateAndMask := by
  intro rA rS rB sh mb me s
  have hreg := hasBits_rotl32 (s.readGpr rS) (rotateCount (s.readGpr rB))
  rw [rotateCount_eq] at hreg
  exact ⟨encodedM_of_mForm 21 rS rA sh mb me rfl rfl, encodedM_of_mForm 23 rS rA rB mb me rfl rfl,
    completesBitsRc_of_resultInto rfl rfl (hasBits_and (hasBits_rotl32 _ sh.val) (hasBits_mask mb me)),
    completesBitsRc_of_resultInto rfl rfl (hasBits_and hreg (hasBits_mask mb me))⟩

/-- Settles O51: the result is the rotated word inserted into (rA) under the mask. -/
theorem rotateAndInsert : Obligations.RotateAndInsert := fun rA rS sh mb me s =>
  ⟨encodedM_of_mForm 20 rS rA sh mb me rfl rfl, completesBitsRc_of_resultInto rfl rfl
    (hasBits_insert (hasBits_rotl32 (s.readGpr rS) sh.val) (hasBits_self (s.readGpr rA)) (hasBits_mask mb me))⟩

end Sys2Proof.Machine
end

section
/-! PROOFS. The shifts as exact products and quotients, and the shift instructions of spec/45_integer_shift.md. -/

namespace Sys2Proof.Machine

/-! ## The logical shifts (R160 to R162) -/

/-- The left shift is the exact product by 2^n modulo 2^32, at every count. -/
theorem shiftLeft_eq_ofNat (v : Word) (n : Nat) : shiftLeft v n = BitVec.ofNat 32 (v.toNat * 2 ^ n) := by
  have hshift : shiftLeft v n = v <<< n := by
    rw [shiftLeft]
    split
    · rfl
    · next hn => exact (BitVec.shiftLeft_eq_zero (Nat.not_lt.1 hn)).symm
  apply BitVec.eq_of_toNat_eq
  rw [hshift, BitVec.toNat_shiftLeft, Nat.shiftLeft_eq, BitVec.toNat_ofNat]

/-- The logical right shift is the quotient by 2^n rounded down, at every count. -/
theorem shiftRight_eq_ofNat (v : Word) (n : Nat) : shiftRight v n = BitVec.ofNat 32 (v.toNat / 2 ^ n) := by
  have hshift : shiftRight v n = v >>> n := by
    rw [shiftRight]
    split
    · rfl
    · next hn => exact (BitVec.ushiftRight_eq_zero (Nat.not_lt.1 hn)).symm
  have hlt : v.toNat / 2 ^ n < 2 ^ 32 := (Nat.div_le_self ..).trans_lt v.isLt
  apply BitVec.eq_of_toNat_eq
  rw [hshift, BitVec.toNat_ushiftRight, Nat.shiftRight_eq_div_pow, BitVec.toNat_ofNat, Nat.mod_eq_of_lt hlt]

/-- Settles O52: the results are the product and the quotient by 2^n, n being (rB) modulo 64, and both shifts are 0 from
32 on. -/
theorem logicalShifts : Obligations.LogicalShifts := by
  intro rA rS rB s
  refine ⟨encodedX_of_xForm rS rA rB 24 rfl rfl, encodedX_of_xForm rS rA rB 536 rfl rfl, ?_⟩
  dsimp only
  rw [← shiftLeft_eq_ofNat, ← shiftRight_eq_ofNat, ← shiftCount_eq]
  exact ⟨completesRc_of_resultInto rfl rfl, completesRc_of_resultInto rfl rfl,
    fun hn => ⟨if_neg (Nat.not_lt.2 hn), if_neg (Nat.not_lt.2 hn)⟩⟩

/-! ## The algebraic shifts (R160, R163, R164) -/

/-- The algebraic shift is the signed quotient rounded down, at every count. -/
theorem shiftRightAlgebraic_eq_ofInt (v : Word) (n : Nat) :
    shiftRightAlgebraic v n = BitVec.ofInt 32 (v.toInt / 2 ^ n) := by
  rw [← shiftRightAlgebraic_toInt, BitVec.ofInt_toInt]

/-- From 32 on all of the word is shifted out, so CA is the sign: a negative word has a 1 bit. -/
theorem algebraicCarry_of_le (v : Word) {n : Nat} (hn : 32 ≤ n) : algebraicCarry v n = v.msb := by
  have hlt : v.toNat < 2 ^ n := v.isLt.trans_le (Nat.pow_le_pow_right (by omega) hn)
  rw [algebraicCarry, Nat.mod_eq_of_lt hlt]
  cases hmsb : v.msb with
  | false => rfl
  | true =>
    have hbig := BitVec.toNat_ge_of_msb_true hmsb
    exact decide_eq_true (by omega)

/-- The two variants by Rc of one algebraic shift, of value `r` and carry `ca`. -/
theorem completesRc_of_algebraicInto {plain record : Instr} {s : State} {d : Reg} {v r : Word} {n : Nat} {ca : Bool}
    (hplain : exec plain s = .next (s.algebraicInto false d v n))
    (hrecord : exec record s = .next (s.algebraicInto true d v n))
    (hr : shiftRightAlgebraic v n = r) (hca : algebraicCarry v n = ca) :
    CompletesRc plain record s { target := some (d, r), ca := some ca } r := by
  subst hr hca
  exact ⟨⟨_, hplain, algebraicInto_holds s false d v n⟩, _, hrecord, algebraicInto_holds s true d v n⟩

/-- Settles O53: below a count of 32 the result is the signed quotient, and from 32 on both it and CA are the sign. -/
theorem shiftRightAlgebraicInstructions : Obligations.ShiftRightAlgebraic := by
  intro rA rS rB sh s
  refine ⟨encodedX_of_xForm rS rA sh 824 rfl rfl, encodedX_of_xForm rS rA rB 792 rfl rfl,
    completesRc_of_algebraicInto rfl rfl (shiftRightAlgebraic_eq_ofInt _ _) rfl, ?_⟩
  rw [← shiftCount_eq]
  refine completesRc_of_algebraicInto rfl rfl ?_ ?_
  · split
    case isTrue hn => exact shiftRightAlgebraic_eq_ofInt _ _
    case isFalse hn => exact if_neg hn
  · split
    case isTrue hn => rfl
    case isFalse hn => exact algebraicCarry_of_le _ (Nat.not_lt.1 hn)

end Sys2Proof.Machine
end

section
/-! PROOFS. The trap condition and the trap instructions of spec/46_system_call_and_trap.md. -/

namespace Sys2Proof.Machine

/-! ## The trap condition (R171) -/

/-- With no bit of TO set, nothing is selected. -/
theorem not_trapHolds_zero (a b : Word) : ¬ TrapHolds 0 a b := by
  simp [TrapHolds]

/-- With every bit of TO set, one of less, equal and greater is selected; the unsigned comparisons suffice. -/
theorem trapHolds_all (a b : Word) : TrapHolds 31 a b := by
  obtain hlt | heq | hgt := Nat.lt_trichotomy a.toNat b.toNat
  · exact .inr (.inr (.inr (.inl ⟨rfl, hlt⟩)))
  · exact .inr (.inr (.inl ⟨rfl, BitVec.eq_of_toNat_eq heq⟩))
  · exact .inr (.inr (.inr (.inr ⟨rfl, hgt⟩)))

/-- Settles O56: `trapCondition_iff`, and at the two ends of TO what `TrapHolds` says there. -/
theorem trapConditionSelectsComparisons : Obligations.TrapCondition := fun trapOn a b =>
  ⟨trapCondition_iff trapOn a b, Bool.eq_false_iff.2 (mt (trapCondition_iff 0 a b).1 (not_trapHolds_zero a b)),
    (trapCondition_iff 31 a b).2 (trapHolds_all a b)⟩

/-! ## The instructions (R172, R173) -/

/-- The sign-extended immediate is the word of its signed value. -/
theorem signExtended_eq_ofInt (imm : BitVec 16) : signExtended imm = BitVec.ofInt 32 imm.toInt := by
  rw [← signExtended_toInt, BitVec.ofInt_toInt]

/-- An instruction that is `trapWhen` of a trap condition raises where the condition holds, and elsewhere changes the pc
alone. -/
theorem raises_or_completes_of_trapWhen {i : Instr} {s : State} {trapOn : BitVec 5} {a b : Word}
    (hi : exec i s = s.trapWhen (trapCondition trapOn a b)) :
    (TrapHolds trapOn a b →
      exec i s = .fault (.exception { kind := .programTrap, raisedAt := s.pc, next := s.pc })) ∧
    (¬ TrapHolds trapOn a b → Completes i s {}) := by
  rw [← trapCondition_iff]
  refine ⟨fun htrap => hi.trans ((trapWhen_eq_exception_iff s _).2 htrap),
    fun hnot => ⟨s.advancePc, ?_, advancePc_holds s⟩⟩
  rw [hi, Bool.eq_false_iff.2 hnot, trapWhen_not]

/-- Settles O57: the two forms of the word, and for each instruction `raises_or_completes_of_trapWhen`. -/
theorem trapInstructions : Obligations.TrapInstructions := by
  intro trapOn rA rB simm s
  have htwi : exec (.twi trapOn rA simm) s = s.trapWhen (trapCondition trapOn (s.readGpr rA) (signExtended simm)) := rfl
  have htw : exec (.tw trapOn rA rB) s = s.trapWhen (trapCondition trapOn (s.readGpr rA) (s.readGpr rB)) := rfl
  rw [signExtended_eq_ofInt] at htwi
  obtain ⟨htwiRaises, htwiCompletes⟩ := raises_or_completes_of_trapWhen htwi
  obtain ⟨htwRaises, htwCompletes⟩ := raises_or_completes_of_trapWhen htw
  exact ⟨dTrapForm_toNat .., xTrapForm_toNat .., htwiRaises, htwiCompletes, htwRaises, htwCompletes⟩

end Sys2Proof.Machine
end
